-- ==== Sys2Proof/Word.lean ====
section
/-! DEFINITION. The word and byte types, and the names of the four input buffers. -/

namespace Sys2Proof

/-- A 32-bit register or command word; bit 0 is the least significant bit (00_scope R14). -/
abbrev Word := BitVec 32

/-- One byte of an input buffer (10_state R44). -/
abbrev Byte := BitVec 8

/-- The four input buffers that the BSEL field selects (10_state R44, 30_encoding R102). -/
inductive BufSel where
  /-- the general buffer, for stand-alone reads -/
  | gb
  /-- the primary header bytes -/
  | ph
  /-- the secondary header bytes -/
  | sh
  /-- the raw user data -/
  | ud
deriving DecidableEq, Repr, Inhabited

end Sys2Proof
end

