-- ==== Sys2Proof/Config.lean ====
section
/-! DEFINITION. The configuration of a core (00_scope R8 to R12): plain data, the checks it must pass, and the constants the
spec leaves open. A configuration is the parameter of the model and no part of the machine's own state; it reaches the step
as a field of State that no step changes (log 1). -/

namespace Sys2Proof

/-! ## S-values -/

/-- An S-value (00_scope R11). The carrier keeps the exact integers apart from every other value, so that `ofInt` is exact
on them; `negZero` is the negative zero of a core with NEG_ZERO_DISTINCT, and `other` numbers the values the spec says
nothing about (log 3, DEDUCED). -/
inductive SVal where
  /-- the exact integer -/
  | int (v : Int)
  /-- `neg (ofInt 0)` where it differs from `ofInt 0` -/
  | negZero
  /-- any other value of the open type -/
  | other (code : Nat)
deriving DecidableEq, Repr, Inhabited

/-- OPEN: the S-value of an integer beyond the exact range |v| <= 511 (00_scope R11, log 4). -/
opaque Config.ofIntOpen : Int → SVal

/-- OPEN: `neg` of a value that is no exact integer (00_scope R11, log 4). -/
opaque Config.negOpen : SVal → SVal

/-- OPEN: the product of two S-values; it depends on its two operands alone (00_scope R11, log 4). -/
opaque Config.mul : SVal → SVal → SVal

/-- OPEN: SVAL_BITS, the width of the read-out encoding (92 D27, log 4). -/
opaque Config.svalBits : Nat

/-- OPEN: the read-out encoding that RDOUT gives the host (92 D27, log 4). -/
opaque Config.enc : SVal → BitVec Config.svalBits

/-- OPEN: BASE, the bus address of register 0 (10_state R43, log 21). -/
opaque Config.base : Nat

/-- The bus windows beside the registers (20_memory R86, 92 D3, D42). -/
inductive BusWindow where
  /-- the bytes of a buffer, written by LOAD -/
  | buffer (b : BufSel)
  /-- the rows of MAP[0], or of MAP[1] if `secondary` -/
  | map (secondary : Bool)
  /-- the samples of OUT -/
  | out
  /-- the blocks of SIDE -/
  | side
deriving DecidableEq, Repr

/-- OPEN: the bus address of entry `i` of a window (20_memory R86, 92 D3, D42, 93 U12, log 21). -/
opaque Config.windowEntry : BusWindow → (i : Nat) → Nat

/-! ## Free values -/

/-- Free value: what BRC holds after the failed Type D GET_SAMPLES numbered by the argument (43_packet R231, log 9). -/
opaque Config.freeBrc : Nat → List (BitVec 3)

/-- Free value: what THIDX holds after the failed Type D GET_SAMPLES numbered by the argument (43_packet R231, log 9). -/
opaque Config.freeThidx : Nat → List (BitVec 8)

/-- Free value: the bytes of UD after the release numbered by the argument (10_state R45, log 10). -/
opaque Config.freeBytes : Nat → List Byte

/-! ## Field tables -/

/-- The name of a header field: those of the default tables (42_header_extractor R206, R207), its spare rows
`ignored_k`, and `extra k` for the k-th name of a table that has names of its own. -/
inductive FieldName where
  | packetVersionNumber | packetType | secondaryHeaderFlag | processId | packetCategory
  | sequenceFlags | packetSequenceCount | packetDataLength | coarseTime | fineTime
  | syncMarker | dataTakeId | eccNumber | testMode | rxChannelId
  | instrumentConfigurationId | subCommutatedIndex | subCommutatedData | spacePacketCount | priCount
  | errorFlag | baqMode | baqBlockLength | rangeDecimation | rxGain
  | txRampRateSign | txRampRateMagnitude | txPulseStartFrequencySign | txPulseStartFrequencyMagnitude | txPulseLength
  | rank | pri | swst | swl | ssbFlag
  | polarization | temperatureCompensation | elevationBeamAddress | azimuthBeamAddress | calibrationMode
  | txPulseNumber | signalType | swap | swathNumber | numberOfQuads
  | ignored (k : Nat)
  | extra (k : Nat)
deriving DecidableEq, Repr, Inhabited

/-- One row of a field table: a name and a width in bits (00_scope R10). -/
structure Field where
  name : FieldName
  width : Nat
deriving DecidableEq, Repr, Inhabited

/-- The default PH_TABLE (42_header_extractor R206, from general knowledge; log 2, PRESUMED). -/
def defaultPhTable : List Field := [
   ⟨.packetVersionNumber, 3⟩, ⟨.packetType, 1⟩, ⟨.secondaryHeaderFlag, 1⟩, ⟨.processId, 7⟩,
   ⟨.packetCategory, 4⟩, ⟨.sequenceFlags, 2⟩, ⟨.packetSequenceCount, 14⟩, ⟨.packetDataLength, 16⟩]

/-- The default SH_TABLE (42_header_extractor R207, from general knowledge; log 2, PRESUMED). -/
def defaultShTable : List Field := [
   ⟨.coarseTime, 32⟩, ⟨.fineTime, 16⟩, ⟨.syncMarker, 32⟩, ⟨.dataTakeId, 32⟩, ⟨.eccNumber, 8⟩,
   ⟨.ignored 0, 1⟩, ⟨.testMode, 3⟩, ⟨.rxChannelId, 4⟩, ⟨.instrumentConfigurationId, 32⟩,
   ⟨.subCommutatedIndex, 8⟩, ⟨.subCommutatedData, 16⟩, ⟨.spacePacketCount, 32⟩, ⟨.priCount, 32⟩,
   ⟨.errorFlag, 1⟩, ⟨.ignored 1, 2⟩, ⟨.baqMode, 5⟩, ⟨.baqBlockLength, 8⟩, ⟨.ignored 2, 8⟩,
   ⟨.rangeDecimation, 8⟩, ⟨.rxGain, 8⟩, ⟨.txRampRateSign, 1⟩, ⟨.txRampRateMagnitude, 15⟩,
   ⟨.txPulseStartFrequencySign, 1⟩, ⟨.txPulseStartFrequencyMagnitude, 15⟩, ⟨.txPulseLength, 24⟩,
   ⟨.ignored 3, 3⟩, ⟨.rank, 5⟩, ⟨.pri, 24⟩, ⟨.swst, 24⟩, ⟨.swl, 24⟩, ⟨.ssbFlag, 1⟩, ⟨.polarization, 3⟩,
   ⟨.temperatureCompensation, 2⟩, ⟨.ignored 4, 2⟩, ⟨.elevationBeamAddress, 4⟩, ⟨.ignored 5, 2⟩,
   ⟨.azimuthBeamAddress, 10⟩, ⟨.calibrationMode, 2⟩, ⟨.ignored 6, 1⟩, ⟨.txPulseNumber, 5⟩,
   ⟨.signalType, 4⟩, ⟨.ignored 7, 3⟩, ⟨.swap, 1⟩, ⟨.swathNumber, 8⟩, ⟨.numberOfQuads, 16⟩,
   ⟨.ignored 8, 8⟩]

/-- The total width of a field table in bits. -/
def tableBits : List Field → Nat
  | [] => 0
  | f :: fs => f.width + tableBits fs

/-- The width of the named field, 0 where the table has none. -/
def fieldWidth (tab : List Field) (name : FieldName) : Nat :=
  match tab with
  | [] => 0
  | f :: fs => if f.name = name then f.width else fieldWidth fs name

/-! ## The tables of one mode -/

/-- One entry of HUFF_TABLE[b]: the key (length, code) and its symbol (00_scope R9). -/
structure HuffEntry where
  len : Nat
  code : Nat
  sym : Byte
deriving DecidableEq, Repr, Inhabited

/-- The lookup tables of one mode b (00_scope R9). NRL_LEN[b] is the length of `normalized`. -/
structure ModeTables where
  /-- HUFF_TABLE[b], a finite partial map from (len, code) to a symbol -/
  huff : List HuffEntry
  /-- START_LEN[b] -/
  startLen : Nat
  /-- BRC_TO_M_CODE[b] -/
  mCode : Int
  /-- BRC_TO_THIDX[b] -/
  thidxMax : Nat
  /-- SIMPLE_RECONSTRUCTION_TABLE[b], indexed by the threshold index -/
  simple : List SVal
  /-- NORMALIZED_RECONSTRUCTION_TABLE[b], indexed by the magnitude code -/
  normalized : List SVal
deriving DecidableEq, Repr, Inhabited

/-! ## A configuration -/

/-- Every parameter of 00_scope R8 to R12 as plain data. -/
structure ConfigData where
  /-- MAX_WIDTH -/
  maxWidth : Nat := 64
  /-- HUFF_MAX_LEN -/
  huffMaxLen : Nat := 10
  /-- W, the word alignment unit in bits -/
  wordUnit : Nat := 16
  /-- BLOCK_Q, samples per BAQ block -/
  blockQ : Nat := 128
  /-- PH_BYTES -/
  phBytes : Nat := 6
  /-- SH_SIZE -/
  shSize : Nat := 62
  /-- BRC_MAX -/
  brcMax : Nat := 4
  /-- BRC_BITS -/
  brcBits : Nat := 3
  /-- THIDX_BITS -/
  thidxBits : Nat := 8
  /-- AB_SIGN_BITS -/
  abSignBits : Nat := 1
  /-- AB_MAG_BITS -/
  abMagBits : Nat := 9
  /-- the tables of the modes 0 .. BRC_MAX (00_scope R9) -/
  modes : List ModeTables
  /-- SC_PLEN -/
  scPlen : Nat
  /-- SC_ADV -/
  scAdv : Nat
  /-- THRESHOLD_SCALE_FACTOR, indexed by the threshold index -/
  scale : List SVal
  /-- PH_TABLE (00_scope R10) -/
  phTable : List Field := defaultPhTable
  /-- SH_TABLE (00_scope R10) -/
  shTable : List Field := defaultShTable
  /-- NEG_ZERO_DISTINCT (00_scope R11) -/
  negZeroDistinct : Bool
  /-- CAP_GB, in bytes (00_scope R12) -/
  capGb : Nat
  /-- CAP_PH -/
  capPh : Nat
  /-- CAP_SH -/
  capSh : Nat
  /-- CAP_UD -/
  capUd : Nat
deriving DecidableEq, Repr, Inhabited

/-- NQ_MAX = 2^w - 1 for the width w of `number_of_quads` (00_scope R12). -/
def ConfigData.nqMax (c : ConfigData) : Nat := 2 ^ fieldWidth c.shTable .numberOfQuads - 1

/-- NB_MAX = ceil(NQ_MAX / BLOCK_Q) (00_scope R12). -/
def ConfigData.nbMax (c : ConfigData) : Nat := (c.nqMax + c.blockQ - 1) / c.blockQ

/-- The tables of mode `b`; a mode beyond BRC_MAX has none, and every use of it is refused before it is read. -/
def ConfigData.mode (c : ConfigData) (b : Nat) : ModeTables := c.modes.getD b default

/-! ## The checks (00_scope R8 to R12, 42_header_extractor R202, 44_type_d_path R272) -/

/-- Why a configuration is refused. -/
inductive ConfigError where
  /-- MAX_WIDTH is not 64 (00_scope R8) -/
  | maxWidth
  /-- HUFF_MAX_LEN is not in 1..15 (00_scope R8) -/
  | huffMaxLen
  /-- W is 0 (00_scope R8) -/
  | wordUnit
  /-- BLOCK_Q is 0 (00_scope R8) -/
  | blockQ
  /-- a BRC of BRC_BITS bits and at most BRC_MAX need not fit the 3-bit entries of BRC (10_state R47; log 13, DEDUCED) -/
  | brcMax
  /-- a field of the user data is no field of the bit reader, a threshold index need not fit the 8-bit entries of THIDX, or
  the sign of a Type A/B code is not one bit (10_state R47, 00_scope R15; log 13, DEDUCED) -/
  | fieldBits
  /-- there is not one set of mode tables for each mode 0 .. BRC_MAX (00_scope R9) -/
  | modeCount
  /-- a START_LEN is not in 1..HUFF_MAX_LEN (00_scope R9) -/
  | startLen
  /-- a HUFF_TABLE key is out of range or stands twice (00_scope R9) -/
  | huffKeys
  /-- a BRC_TO_THIDX is above 255 (00_scope R9) -/
  | thidxMax
  /-- a SIMPLE_RECONSTRUCTION_TABLE has not BRC_TO_THIDX + 1 entries (44_type_d_path R272) -/
  | simpleLength
  /-- SC_PLEN is not in 1..HUFF_MAX_LEN or SC_ADV not in 1..15 (00_scope R9) -/
  | shortcut
  /-- THRESHOLD_SCALE_FACTOR has not 256 entries (00_scope R9) -/
  | scaleLength
  /-- a field width is not in 1..MAX_WIDTH (00_scope R10) -/
  | fieldWidths
  /-- the widths of a table do not sum to its header's bits (00_scope R10) -/
  | tableSum
  /-- a name stands twice in a table (00_scope R10) -/
  | duplicateName
  /-- a required field is missing (00_scope R10) -/
  | missingName
  /-- `baq_mode` or `test_mode` is wider than 8 bits (00_scope R10) -/
  | modeFieldWidth
  /-- `number_of_quads` is wider than the register NQ (10_state R39; log 13, DEDUCED) -/
  | quadsWidth
  /-- a buffer capacity is below its least or makes a cursor overflow (00_scope R12) -/
  | capacity
deriving DecidableEq, Repr

/-- A key is in range: 1 <= len <= HUFF_MAX_LEN and code < 2^len. -/
def HuffEntry.inRange (maxLen : Nat) (e : HuffEntry) : Bool :=
  1 ≤ e.len && e.len ≤ maxLen && e.code < 2 ^ e.len

/-- No element of the list stands twice. -/
def allDistinct {α : Type} [DecidableEq α] : List α → Bool
  | [] => true
  | x :: xs => !xs.contains x && allDistinct xs

/-- A field table has the name. -/
def hasField (tab : List Field) (name : FieldName) : Bool := tab.any fun f => f.name == name

/-- `8·cap + 15 < 2^CUR_W` (00_scope R12). -/
def capFits (cap : Nat) : Bool := 8 * cap + 15 < 2 ^ 32

/-- Every check with the error it stands for. -/
def ConfigData.checks (c : ConfigData) : List (ConfigError × Bool) :=
  [(.maxWidth, c.maxWidth == 64),
   (.huffMaxLen, 1 ≤ c.huffMaxLen && c.huffMaxLen ≤ 15),
   (.wordUnit, 1 ≤ c.wordUnit),
   (.blockQ, 1 ≤ c.blockQ),
   (.brcMax, c.brcBits ≤ 3 || c.brcMax ≤ 7),
   (.fieldBits, (1 ≤ c.brcBits && c.brcBits ≤ 64) && (1 ≤ c.thidxBits && c.thidxBits ≤ 8) &&
      c.abSignBits == 1 && (1 ≤ c.abMagBits && c.abMagBits ≤ 64)),
   (.modeCount, c.modes.length == c.brcMax + 1),
   (.startLen, c.modes.all fun m => 1 ≤ m.startLen && m.startLen ≤ c.huffMaxLen),
   (.huffKeys, c.modes.all fun m =>
      (m.huff.all fun e => e.inRange c.huffMaxLen) && allDistinct (m.huff.map fun e => (e.len, e.code))),
   (.thidxMax, c.modes.all fun m => m.thidxMax ≤ 255),
   (.simpleLength, c.modes.all fun m => m.simple.length == m.thidxMax + 1),
   (.shortcut, (1 ≤ c.scPlen && c.scPlen ≤ c.huffMaxLen) && (1 ≤ c.scAdv && c.scAdv ≤ 15)),
   (.scaleLength, c.scale.length == 256),
   (.fieldWidths, (c.phTable ++ c.shTable).all fun f => 1 ≤ f.width && f.width ≤ c.maxWidth),
   (.tableSum, tableBits c.phTable == 8 * c.phBytes && tableBits c.shTable == 8 * c.shSize),
   (.duplicateName, allDistinct (c.phTable.map Field.name) && allDistinct (c.shTable.map Field.name)),
   (.missingName, hasField c.phTable .packetDataLength && hasField c.shTable .numberOfQuads &&
      hasField c.shTable .testMode && hasField c.shTable .baqMode),
   (.modeFieldWidth, fieldWidth c.shTable .baqMode ≤ 8 && fieldWidth c.shTable .testMode ≤ 8),
   (.quadsWidth, fieldWidth c.shTable .numberOfQuads ≤ 32),
   (.capacity, capFits c.capGb && capFits c.capPh && capFits c.capSh && capFits c.capUd &&
      c.phBytes ≤ c.capPh && c.shSize ≤ c.capSh && 65474 ≤ c.capUd)]

/-- The errors of a configuration, in the order of the checks. -/
def ConfigData.errors (c : ConfigData) : List ConfigError :=
  (c.checks.filter fun p => !p.2).map Prod.fst

/-- A configuration passes every check. -/
def ConfigData.wf (c : ConfigData) : Bool := c.checks.all Prod.snd

/-- A well-formed configuration: the data and the proof that it passed the checks. An ill-formed one cannot be built, so
it is refused before the first command (70_reset_and_hazards R364, 92 D43). -/
structure Config extends ConfigData where
  ok : toConfigData.wf = true
deriving DecidableEq, Repr

/-- Accept a well-formed configuration, refuse an ill-formed one with its errors (70_reset_and_hazards R364). -/
def Config.make (c : ConfigData) : Except (List ConfigError) Config :=
  if h : c.wf = true then .ok ⟨c, h⟩ else .error c.errors

/-! ## The configuration of the machine after reset -/

/-- The parameters the spec gives no value for (00_scope R9, R11, R12). -/
structure OpenData where
  modes : List ModeTables
  scPlen : Nat
  scAdv : Nat
  scale : List SVal
  negZeroDistinct : Bool
  capGb : Nat
  capPh : Nat
  capSh : Nat
  capUd : Nat
deriving DecidableEq, Repr

/-- The spec's defaults (00_scope R8, 42_header_extractor R206, R207) with the open parameters filled in. -/
def ConfigData.ofOpen (o : OpenData) : ConfigData :=
  { modes := o.modes, scPlen := o.scPlen, scAdv := o.scAdv, scale := o.scale,
    negZeroDistinct := o.negZeroDistinct, capGb := o.capGb, capPh := o.capPh, capSh := o.capSh, capUd := o.capUd }

/-- The smallest tables the checks allow. They show that well-formed parameters exist and serve nothing else. -/
def OpenData.least : OpenData :=
  { modes := List.replicate 5 ⟨[], 1, 0, 0, [.int 0], []⟩, scPlen := 1, scAdv := 1,
    scale := List.replicate 256 (.int 0), negZeroDistinct := false,
    capGb := 0, capPh := 6, capSh := 62, capUd := 65474 }

theorem OpenData.least_wf : (ConfigData.ofOpen OpenData.least).wf = true := by decide +kernel

/-- Open parameters that pass the checks beside the spec's defaults. -/
structure OpenParams where
  data : OpenData := OpenData.least
  ok : (ConfigData.ofOpen data).wf = true := by exact OpenData.least_wf
deriving DecidableEq, Repr, Inhabited

/-- OPEN: the tables, shortcut lengths, capacities and NEG_ZERO_DISTINCT of this core. Nothing is known of them but that
they are well-formed (00_scope R9, R11, R12; log 2). -/
opaque Config.openParams : OpenParams

/-- The configuration of the machine after reset: the spec's defaults and the open parameters (log 2). -/
def Config.initial : Config := ⟨ConfigData.ofOpen Config.openParams.data, Config.openParams.ok⟩

end Sys2Proof
end

