-- ==== Sys2Proof/Machine/State.lean ====
section
/-! DEFINITION. The architectural state of one core (10_state R30) as plain data, the outcomes' reasons, the transactions
of the host, and the state after reset (10_state R55). -/

namespace Sys2Proof.Machine

/-! ## Names -/

/-- The data formats (00_scope R17). -/
inductive Format where
  | a | b | c | d
deriving DecidableEq, Repr, Inhabited

/-- The four sample components, in decode order (00_scope R16). -/
inductive Component where
  | ie | io | qe | qo
deriving DecidableEq, Repr, Inhabited

/-- The error kinds of 60_exceptions R320. -/
inductive ErrKind where
  | invalidBitWidth
  | bufferTooShort
  | huffmanDecodeError
  | lengthMismatch
  | invalidBaqMode
  | invalidBrc
  | invalidMagnitudeCode
  /-- never raised by this core (60_exceptions R322) -/
  | invalidCode
  | unsupportedFormat
  | illegalCommand
  | sequenceError
  | cursorOverflow
deriving DecidableEq, Repr

/-- `raise E(pos)`: an error kind and its position (60_exceptions R326). -/
structure Raise where
  kind : ErrKind
  pos : Nat
deriving DecidableEq, Repr

/-- Why the machine stops. All of them are transactions by which the host breaks a duty (60_exceptions R346); a command
never stops the machine. Each is safe: the hardware goes on with unspecified results, the model stops. -/
inductive Fault where
  /-- raised by every transaction but RD and RESET while BUSY = 1 (70_reset_and_hazards R371); safe -/
  | hostWhileBusy
  /-- raised by a LOAD of more bytes than the buffer's capacity (60_exceptions R346); safe -/
  | loadOverCapacity
  /-- raised by RDMAP of a map that is not valid or a row the table has not (10_state R54); safe -/
  | readInvalidMap
  /-- raised by RDOUT without a valid cache or beyond 2·NQ (10_state R54); safe -/
  | readInvalidOut
  /-- raised by RDSIDE outside the condition of 10_state R47 (10_state R54); safe -/
  | readInvalidSide
deriving DecidableEq, Repr

/-- Why an instruction has no meaning. No meaning of this model answers with it. -/
inductive Refusal where
  /-- raised by an arm of exec whose instruction is not modelled yet; safe -/
  | notModelled (mnemonic : String)
deriving DecidableEq, Repr

/-! ## Parts of the state -/

/-- The written bytes of a buffer: (offset, byte) pairs, offsets strictly rising, no entry equal to what an unlisted
offset reads as. -/
abbrev Memory := List Host.Cell

/-- An input buffer: its LEN register and its bytes (10_state R41, R44). -/
structure Buffer where
  len : Word
  mem : Memory
deriving DecidableEq, Repr, Inhabited

/-- The fields of STATUS (10_state R36). Its reserved bits have no home, so they read 0. -/
structure Status where
  busy : Bool
  err : Bool
  multiErr : Bool
  lastOk : Bool
  resValid : Bool
  huffValid : Bool
  map0Valid : Bool
  map1Valid : Bool
  pktValid : Bool
  cacheValid : Bool
  udReleased : Bool
  errCode : BitVec 4
deriving DecidableEq, Repr, Inhabited

/-- What the host can do (60_exceptions R345). -/
inductive Transaction where
  /-- RESET -/
  | reset
  /-- LOAD B, bytes -/
  | load (b : BufSel) (bytes : List Byte)
  /-- WR r, v; a WR of register 0 runs the command v -/
  | wr (r : BitVec 6) (v : Word)
  /-- RD r -/
  | rd (r : BitVec 6)
  /-- RDMAP T, i, with `secondary` for T = 1 -/
  | rdMap (secondary : Bool) (i : Nat)
  /-- RDOUT k -/
  | rdOut (k : Nat)
  /-- RDSIDE b -/
  | rdSide (b : Nat)
deriving DecidableEq, Repr

/-- What a transaction gives the host back (60_exceptions R345). -/
inductive Reply where
  /-- of RD: a register value -/
  | register (v : Word)
  /-- of RDMAP: a map entry -/
  | field (v : BitVec 64)
  /-- of RDOUT: the encodings of a complex sample -/
  | sample (re im : BitVec Config.svalBits)
  /-- of RDSIDE: BRC[b] and THIDX[b] -/
  | side (brc : BitVec 3) (thidx : BitVec 8)
deriving DecidableEq, Repr

/-! ## The state -/

/-- The state of one core (10_state R30). The arrays BRC, THIDX and OUT list their entries from entry 0 on; an entry past
the list reads as it does after reset. The last four fields are the model's own (log 1, log 5, log 9). -/
structure State where
  /-- register 1 (10_state R36) -/
  status : Status
  /-- CUR, register 2 (10_state R33) -/
  cur : Word
  /-- ERRPOS, register 3 (10_state R37) -/
  errPos : Word
  /-- RES, registers 4 and 5 (10_state R34) -/
  res : BitVec 64
  /-- HUFF.SYM, register 6 (10_state R35) -/
  huffSym : Byte
  /-- HUFF.HLEN, register 6 (10_state R35) -/
  huffLen : Byte
  /-- MODE.BAQ_MODE, register 7 (10_state R38) -/
  baqMode : Byte
  /-- MODE.TEST_MODE, register 7 (10_state R38) -/
  testMode : Byte
  /-- MODE.FMT, register 7 (10_state R38) -/
  fmt : Format
  /-- NQ, register 8 (10_state R39) -/
  nq : Word
  /-- NB, register 9 (10_state R40) -/
  nb : Word
  /-- the general buffer with LEN_GB, register 10 (10_state R44) -/
  gb : Buffer
  /-- the primary header buffer with LEN_PH, register 11 (10_state R44) -/
  ph : Buffer
  /-- the secondary header buffer with LEN_SH, register 12 (10_state R44) -/
  sh : Buffer
  /-- the user data buffer with LEN_UD, register 13 (10_state R44, R45) -/
  ud : Buffer
  /-- MAP[0] (10_state R46) -/
  map0 : List (BitVec 64)
  /-- MAP[1] (10_state R46) -/
  map1 : List (BitVec 64)
  /-- BRC (10_state R47) -/
  brc : List (BitVec 3)
  /-- THIDX (10_state R47) -/
  thidx : List (BitVec 8)
  /-- OUT (10_state R48) -/
  out : List (SVal × SVal)
  /-- the configuration this core was built with, the model's parameter (00_scope R8 to R12) -/
  cfg : Config
  /-- the transactions the host has still to issue, the next one first (60_exceptions R345, 20_memory R88) -/
  pending : List Transaction
  /-- what the last transaction gave the host back (60_exceptions R345) -/
  reply : Option Reply
  /-- how many free values have been drawn -/
  free : Nat
deriving DecidableEq, Repr

/-! ## Reset -/

/-- STATUS after reset: every field 0 (10_state R55). -/
def Status.cleared : Status :=
  { busy := false, err := false, multiErr := false, lastOk := false, resValid := false, huffValid := false,
    map0Valid := false, map1Valid := false, pktValid := false, cacheValid := false, udReleased := false,
    errCode := 0#4 }

/-- A buffer after reset: length 0 (10_state R55), nothing listed (log 7, log 8: DESIGN CHOICE). -/
def Buffer.empty : Buffer := { len := 0#32, mem := [] }

/-- Every piece of state at its reset value (10_state R55) under a configuration, with no transaction pending. The
contents the spec leaves unspecified are all 0 (log 7: DESIGN CHOICE). -/
def State.cleared (c : Config) : State :=
  { status := Status.cleared, cur := 0#32, errPos := 0#32, res := 0#64, huffSym := 0#8, huffLen := 0#8,
    baqMode := 0#8, testMode := 0#8, fmt := .a, nq := 0#32, nb := 0#32,
    gb := Buffer.empty, ph := Buffer.empty, sh := Buffer.empty, ud := Buffer.empty,
    map0 := List.replicate c.phTable.length 0#64, map1 := List.replicate c.shTable.length 0#64,
    brc := [], thidx := [], out := [],
    cfg := c, pending := [], reply := none, free := 0 }

/-- The machine right after power-on reset (70_reset_and_hazards R360, R362): idle, with no transaction issued yet. -/
def State.reset : State := State.cleared Config.initial

end Sys2Proof.Machine
end

