-- ==== Sys2Proof/Machine/Flags.lean ====
section
/-! DEFINITION. STATUS: its word, the error codes, and every rule by which its bits are set and cleared (10_state R36, R51). -/

namespace Sys2Proof.Machine

/-- ERRCODE of an error kind (60_exceptions R320). -/
def errCode : ErrKind → BitVec 4
  | .invalidBitWidth => 1#4
  | .bufferTooShort => 2#4
  | .huffmanDecodeError => 3#4
  | .lengthMismatch => 4#4
  | .invalidBaqMode => 5#4
  | .invalidBrc => 6#4
  | .invalidMagnitudeCode => 7#4
  | .invalidCode => 8#4
  | .unsupportedFormat => 9#4
  | .illegalCommand => 10#4
  | .sequenceError => 11#4
  | .cursorOverflow => 12#4

/-- The value of register 1 (10_state R36): ERRCODE at 19:16, the eleven flags at 10:0, zeros elsewhere. -/
def statusWord (t : Status) : Word :=
  0#12 ++ t.errCode ++ 0#5 ++
    (BitVec.ofBool t.udReleased ++ BitVec.ofBool t.cacheValid ++ BitVec.ofBool t.pktValid ++
     BitVec.ofBool t.map1Valid ++ BitVec.ofBool t.map0Valid ++ BitVec.ofBool t.huffValid ++
     BitVec.ofBool t.resValid ++ BitVec.ofBool t.lastOk ++ BitVec.ofBool t.multiErr ++
     BitVec.ofBool t.err ++ BitVec.ofBool t.busy)

/-- The code of a format in MODE.FMT (00_scope R17). -/
def formatCode : Format → BitVec 2
  | .a => 0#2
  | .b => 1#2
  | .c => 2#2
  | .d => 3#2

/-- STATUS at the end of a successful command (60_exceptions R324). -/
def statusOk (t : Status) : Status := { t with lastOk := true, busy := false }

/-- STATUS at the end of a command that raised `k` (60_exceptions R324): the first error since the last clear is kept, a
later one sets MULTI_ERR. -/
def statusRaised (t : Status) (k : ErrKind) : Status :=
  { t with lastOk := false, busy := false, err := true,
           multiErr := t.multiErr || t.err,
           errCode := bif t.err then t.errCode else errCode k }

/-- STATUS after the host clears the error record (10_state R36). -/
def statusClearErr (t : Status) : Status :=
  { t with err := false, multiErr := false, errCode := 0#4 }

/-- STATUS after a LOAD of buffer `b` (10_state R51 a): PH, SH and UD invalidate the packet and the cache, UD also ends
its release, GB changes nothing. -/
def statusLoaded (t : Status) (b : BufSel) : Status :=
  { t with pktValid := t.pktValid && b == .gb,
           cacheValid := t.cacheValid && b == .gb,
           udReleased := t.udReleased && !(b == .ud) }

/-- STATUS after a successful EXTRACT of the primary or secondary table (42_header_extractor R200, 10_state R51 b). -/
def statusExtracted (t : Status) (secondary : Bool) : Status :=
  { t with map0Valid := t.map0Valid || !secondary, map1Valid := t.map1Valid || secondary,
           pktValid := false, cacheValid := false }

/-- STATUS after a successful CONSTRUCT (43_packet R222, 10_state R51 c). -/
def statusConstructed (t : Status) : Status := { t with pktValid := true, cacheValid := false }

/-- STATUS after a first successful GET_SAMPLES (43_packet R226, R230). -/
def statusCached (t : Status) : Status := { t with udReleased := true, cacheValid := true }

end Sys2Proof.Machine
end

