-- ==== Sys2Proof/Machine/Ops.lean ====
section
/-! DEFINITION. The named operations: bytes of a buffer, the bit reader, alignment, S-values, the updates of State that
commands and transactions make, and how every command ends (60_exceptions R324). -/

namespace Sys2Proof.Machine

/-! ## Bytes of a buffer -/

/-- What an unlisted byte reads as (log 8: DESIGN CHOICE). The core reads no byte at or beyond LEN (10_state R44). -/
def unlistedByte : Byte := 0#8

/-- The byte at an offset. -/
def readByte (m : Memory) (a : Nat) : Byte :=
  match m with
  | [] => unlistedByte
  | (k, v) :: rest => if k = a then v else readByte rest a

/-- The cells of a byte string that starts at offset `a`, in canonical form. -/
def cellsFrom (a : Nat) : List Byte → Memory
  | [] => []
  | v :: vs => if v = unlistedByte then cellsFrom (a + 1) vs else (a, v) :: cellsFrom (a + 1) vs

/-- Offsets strictly rise and are at least `a`, and no entry equals what an unlisted offset reads as. -/
def memoryWfFrom (a : Nat) : Memory → Bool
  | [] => true
  | (k, v) :: rest => a ≤ k && v != unlistedByte && memoryWfFrom (k + 1) rest

/-- The canonical form of a buffer's bytes. -/
def Memory.wf (m : Memory) : Bool := memoryWfFrom 0 m

/-- A buffer that holds exactly the bytes: content and length replaced as a whole (10_state R44, 60_exceptions R345). -/
def bufferOf (bytes : List Byte) : Buffer :=
  { len := BitVec.ofNat 32 bytes.length, mem := cellsFrom 0 bytes }

/-- UD after release: length 0, bytes unspecified (10_state R45, 43_packet R230; log 10, a free value). -/
def releasedBuffer (free : Nat) : Buffer :=
  { len := 0#32, mem := cellsFrom 0 (Config.freeBytes free) }

/-- LEN[B] as a number. -/
def bufLen (b : Buffer) : Nat := b.len.toNat

/-! ## The bit reader -/

/-- `BufBit(B, k)`: bit `7 - (k mod 8)` of byte `k div 8` (00_scope R14, 20_memory R80). -/
def bufBit (b : Buffer) (k : Nat) : Bool := (readByte b.mem (k / 8)).getLsbD (7 - k % 8)

/-- The first `n` bits from bit offset `s` as a number, the first bit most significant (20_memory R80): the loop of
40_bit_reader R140, one turn per bit. -/
def bitsValue (b : Buffer) (s : Nat) : Nat → Nat
  | 0 => 0
  | n + 1 => 2 * bitsValue b s n + (bufBit b (s + n)).toNat

/-- `ReadBits(B, s, n)` (40_bit_reader R140): the width check, then the span check, then the value. -/
def readBits (c : Config) (b : Buffer) (s n : Nat) : Except Raise Nat :=
  if n < 1 ∨ c.maxWidth < n then .error ⟨.invalidBitWidth, s⟩
  else if 8 * bufLen b < s + n then .error ⟨.bufferTooShort, s⟩
  else .ok (bitsValue b s n)

/-- `AlignUp(c)` for the unit `w`: the smallest multiple of `w` at or above `c` (40_bit_reader R143). -/
def alignUp (w c : Nat) : Nat := (c + w - 1) / w * w

/-- `ceil(a / b)` (00_scope R13). -/
def ceilDiv (a b : Nat) : Nat := (a + b - 1) / b

/-! ## S-values (00_scope R11) -/

/-- `ofInt`: exact for |v| <= 511, open beyond (log 3). -/
def svalOfInt (v : Int) : SVal := if v.natAbs ≤ 511 then .int v else Config.ofIntOpen v

/-- `neg`: the exact negation of an exact integer but 0, whose negation is the negative zero where that is distinct
(00_scope R11, 44_type_d_path R273; log 3, DEDUCED); open on every other value. -/
def svalNeg (c : Config) (x : SVal) : SVal :=
  match x with
  | .int v =>
    if v = 0 then (if c.negZeroDistinct then .negZero else .int 0)
    else if v.natAbs ≤ 511 then .int (-v) else Config.negOpen (.int v)
  | .negZero => Config.negOpen .negZero
  | .other k => Config.negOpen (.other k)

/-- `applySign(s, x)`: x for sign 0, neg x for sign 1 (00_scope R15). -/
def applySign (c : Config) (sign : Bool) (x : SVal) : SVal := if sign then svalNeg c x else x

/-! ## Updates of the state -/

/-- Entries 0 .. new.length - 1 of an array replaced, the others kept. -/
def writeFront {α : Type} (new old : List α) : List α := new ++ old.drop new.length

/-- CUR written. -/
def setCur (s : State) (v : Nat) : State := { s with cur := BitVec.ofNat 32 v }

/-- RES and RES_VALID written (40_bit_reader R141). -/
def setRes (s : State) (v : Nat) : State :=
  { s with res := BitVec.ofNat 64 v, status := { s.status with resValid := true } }

/-- HUFF and HUFF_VALID written (41_huffman R175). -/
def setHuff (s : State) (sym : Byte) (len : Nat) : State :=
  { s with huffSym := sym, huffLen := BitVec.ofNat 8 len, status := { s.status with huffValid := true } }

/-- A header map written whole, with its valid bit and the invalidation (42_header_extractor R200). -/
def setMap (s : State) (secondary : Bool) (vals : List (BitVec 64)) : State :=
  { s with map0 := if secondary then s.map0 else vals,
           map1 := if secondary then vals else s.map1,
           status := statusExtracted s.status secondary }

/-- The packet registers written together (43_packet R222, 10_state R49). -/
def setPacket (s : State) (bm tm : Nat) (fmt : Format) (nq : Nat) : State :=
  { s with baqMode := BitVec.ofNat 8 bm, testMode := BitVec.ofNat 8 tm, fmt := fmt,
           nq := BitVec.ofNat 32 nq, nb := BitVec.ofNat 32 (ceilDiv nq s.cfg.blockQ),
           status := statusConstructed s.status }

/-- The side information of a decoded Type D packet written (43_packet R226). -/
def setSide (s : State) (brc : List (BitVec 3)) (thidx : List (BitVec 8)) : State :=
  { s with brc := writeFront brc s.brc, thidx := writeFront thidx s.thidx }

/-- OUT written, UD released, the cache valid (43_packet R226, R229, R230). -/
def cacheSamples (s : State) (out : List (SVal × SVal)) : State :=
  { s with out := writeFront out s.out, ud := releasedBuffer s.free, free := s.free + 1,
           status := statusCached s.status }

/-- BRC and THIDX unspecified after a failed Type D decode (43_packet R231; log 9, free values). -/
def scrambleSide (s : State) : State :=
  { s with brc := (Config.freeBrc s.free).take s.cfg.nbMax,
           thidx := (Config.freeThidx s.free).take s.cfg.nbMax, free := s.free + 1 }

/-- The error record cleared by the host (10_state R36). -/
def clearErr (s : State) : State := { s with errPos := 0#32, status := statusClearErr s.status }

/-- A buffer replaced by LOAD, with the invalidation of 10_state R51 (a). -/
def loadBuffer (s : State) (b : BufSel) (bytes : List Byte) : State :=
  { s with gb := if b = .gb then bufferOf bytes else s.gb,
           ph := if b = .ph then bufferOf bytes else s.ph,
           sh := if b = .sh then bufferOf bytes else s.sh,
           ud := if b = .ud then bufferOf bytes else s.ud,
           status := statusLoaded s.status b }

/-- RESET: every piece of state at its reset value (70_reset_and_hazards R360, R361); the configuration stays, and so do
the model's own queue and counter (log 5, log 9). -/
def resetCore (s : State) : State :=
  { State.cleared s.cfg with pending := s.pending, free := s.free }

/-! ## How a command begins and ends -/

/-- A CMD write sets BUSY (10_state R36). -/
def startCommand (s : State) : State := { s with status := { s.status with busy := true } }

/-- A command ended without error (60_exceptions R324). -/
def completeOk (s : State) : State := { s with status := statusOk s.status }

/-- A command ended with `raise E(pos)` (60_exceptions R324): the one operation by which every error is taken. It is
recorded, writes nothing else (60_exceptions R325) and transfers no control (60_exceptions R329). -/
def completeRaise (s : State) (e : Raise) : State :=
  { s with errPos := bif s.status.err then s.errPos else BitVec.ofNat 32 e.pos,
           status := statusRaised s.status e.kind }

/-- `Complete(outcome)` (60_exceptions R324): a successful command ends in the state it computed, a failing one in the
state it started from. -/
def complete (s : State) (r : Except Raise State) : State :=
  match r with
  | .ok s' => completeOk s'
  | .error e => completeRaise s e

end Sys2Proof.Machine
end

