-- ==== Sys2Proof/Machine/Operands.lean ====
section
/-! DEFINITION. The operand forms of the commands (30_encoding R111) and of the host: buffer select, table select, fields by
name, and the register map (10_state R43). -/

namespace Sys2Proof.Machine

/-! ## Buffers and tables -/

/-- The buffer BSEL selects (30_encoding R102). -/
def selBuf (s : State) (b : BufSel) : Buffer :=
  match b with
  | .gb => s.gb
  | .ph => s.ph
  | .sh => s.sh
  | .ud => s.ud

/-- CAP_B (00_scope R12). -/
def capacity (c : Config) (b : BufSel) : Nat :=
  match b with
  | .gb => c.capGb
  | .ph => c.capPh
  | .sh => c.capSh
  | .ud => c.capUd

/-- PH_TABLE or SH_TABLE (42_header_extractor R200). -/
def selTable (c : Config) (secondary : Bool) : List Field := if secondary then c.shTable else c.phTable

/-- MAP[0] or MAP[1] (10_state R46). -/
def selMap (s : State) (secondary : Bool) : List (BitVec 64) := if secondary then s.map1 else s.map0

/-- MAP0_VALID or MAP1_VALID (10_state R36). -/
def mapValid (s : State) (secondary : Bool) : Bool :=
  if secondary then s.status.map1Valid else s.status.map0Valid

/-- `MAP[T][name]` (42_header_extractor R203): the entry of the row with that name. A table that lacks the name is no
configuration (00_scope R10). -/
def lookupField (tab : List Field) (vals : List (BitVec 64)) (name : FieldName) : BitVec 64 :=
  match tab, vals with
  | f :: fs, v :: vs => if f.name = name then v else lookupField fs vs name
  | _, _ => 0#64

/-! ## The register map (10_state R43) -/

/-- The value of register 6 (10_state R35). -/
def huffWord (s : State) : Word := 0#16 ++ s.huffLen ++ s.huffSym

/-- The value of register 7 (10_state R38). -/
def modeWord (s : State) : Word := 0#14 ++ formatCode s.fmt ++ s.testMode ++ s.baqMode

/-- The value a host read of a register gives: 0 for CMD and for the reserved numbers (10_state R42, R43). -/
def readRegister (s : State) (r : BitVec 6) : Word :=
  match r.toNat with
  | 1 => statusWord s.status
  | 2 => s.cur
  | 3 => s.errPos
  | 4 => s.res.extractLsb' 0 32
  | 5 => s.res.extractLsb' 32 32
  | 6 => huffWord s
  | 7 => modeWord s
  | 8 => s.nq
  | 9 => s.nb
  | 10 => s.gb.len
  | 11 => s.ph.len
  | 12 => s.sh.len
  | 13 => s.ud.len
  | _ => 0#32

/-- The bus address of register `r`: BASE + 4·r (10_state R43). -/
def registerAddress (r : BitVec 6) : Nat := Config.base + 4 * r.toNat

/-- BRC[b] (10_state R47). -/
def brcAt (brc : List (BitVec 3)) (b : Nat) : BitVec 3 := brc.getD b 0#3

/-- THIDX[b] (10_state R47). -/
def thidxAt (thidx : List (BitVec 8)) (b : Nat) : BitVec 8 := thidx.getD b 0#8

/-- OUT[k] (10_state R48). -/
def outAt (out : List (SVal × SVal)) (k : Nat) : SVal × SVal := out.getD k (.int 0, .int 0)

end Sys2Proof.Machine
end

