-- ==== Sys2Proof/Syntax.lean ====
section
/-! DEFINITION. The six commands (30_encoding R101), one constructor per row of spec/opcode_table.json. -/

namespace Sys2Proof

/-- A command with the operands its word carries (30_encoding R100, R101, R111). -/
inductive Instr where
  /-- READ_BITS: buffer, advance flag A, width field N, all 128 values encodable (30_encoding R104, R105) -/
  | readBits (b : BufSel) (a : Bool) (n : BitVec 7)
  /-- ALIGN: no operand in the word (40_bit_reader R145) -/
  | align
  /-- HUFF: buffer and mode selector M, all 8 values encodable (30_encoding R103) -/
  | huff (b : BufSel) (m : BitVec 3)
  /-- EXTRACT: buffer and the M field, whose values 2 to 7 are illegal (30_encoding R103, R107) -/
  | extract (b : BufSel) (t : BitVec 3)
  /-- CONSTRUCT: no operand in the word (43_packet R222) -/
  | construct
  /-- GET_SAMPLES: no operand in the word (43_packet R226) -/
  | getSamples
deriving DecidableEq, Repr

end Sys2Proof
end

