-- ==== Sys2Proof/Machine/BitReader.lean ====
section
/-! DEFINITION. READ_BITS and ALIGN (40_bit_reader R141, R145). -/

namespace Sys2Proof.Machine

/-- The body of READ_BITS (40_bit_reader R141): the width is N as it stands (30_encoding R105), the start is CUR. -/
def readBitsResult (b : BufSel) (a : Bool) (n : BitVec 7) (s : State) : Except Raise State :=
  match readBits s.cfg (selBuf s b) s.cur.toNat n.toNat with
  | .error e => .error e
  | .ok v => .ok (if a then setCur (setRes s v) (s.cur.toNat + n.toNat) else setRes s v)

/-- READ_BITS (40_bit_reader R141). -/
def execReadBits (b : BufSel) (a : Bool) (n : BitVec 7) (s : State) : Host.Outcome State Fault Refusal :=
  .next (complete s (readBitsResult b a n s))

/-- The body of ALIGN (40_bit_reader R145); it reads no buffer (40_bit_reader R144). -/
def alignResult (s : State) : Except Raise State :=
  let c := alignUp s.cfg.wordUnit s.cur.toNat
  if 2 ^ 32 ≤ c then .error ⟨.cursorOverflow, s.cur.toNat⟩ else .ok (setCur s c)

/-- ALIGN (40_bit_reader R145). -/
def execAlign (s : State) : Host.Outcome State Fault Refusal :=
  .next (complete s (alignResult s))

end Sys2Proof.Machine
end

