-- ==== Sys2Proof/WellFormed.lean ====
section
/-! DEFINITION. Which terms of Instr are commands. The types of the fields carry every bound but one. (The checks of a
configuration stand in Config.lean, since a Config carries the proof that it passed them.) -/

namespace Sys2Proof

/-- Every term is a command but an EXTRACT whose table select is neither 0 nor 1 (30_encoding R103, R107). -/
def Instr.wf : Instr → Bool
  | .readBits _ _ _ => true
  | .align => true
  | .huff _ _ => true
  | .extract _ t => t.toNat ≤ 1
  | .construct => true
  | .getSamples => true

end Sys2Proof
end

