-- ==== Sys2Proof/Decode.lean ====
section
/-! DEFINITION. Decoding a command word, total on every 32-bit word and rejecting by name (30_encoding R109), and the
encoder written from the same field layout (30_encoding R100, R101). -/

namespace Sys2Proof

/-! ## The fields of a command word (30_encoding R100) -/

/-- OP, bits 31:27. -/
def fieldOp (v : Word) : BitVec 5 := v.extractLsb' 27 5

/-- BSEL, bits 26:25. -/
def fieldBsel (v : Word) : BitVec 2 := v.extractLsb' 25 2

/-- M, bits 24:22. -/
def fieldM (v : Word) : BitVec 3 := v.extractLsb' 22 3

/-- A, bit 21. -/
def fieldA (v : Word) : BitVec 1 := v.extractLsb' 21 1

/-- N, bits 20:14. -/
def fieldN (v : Word) : BitVec 7 := v.extractLsb' 14 7

/-- The reserved bits 13:0. -/
def fieldReserved (v : Word) : BitVec 14 := v.extractLsb' 0 14

/-- Bits 26:14, all the fields between OP and the reserved bits. -/
def fieldOperands (v : Word) : BitVec 13 := v.extractLsb' 14 13

/-- The buffer a BSEL value selects (30_encoding R102). -/
def bselOf (b : BitVec 2) : BufSel :=
  if b = 0#2 then .gb else if b = 1#2 then .ph else if b = 2#2 then .sh else .ud

/-- The BSEL value of a buffer (30_encoding R102). -/
def bselCode : BufSel → BitVec 2
  | .gb => 0#2
  | .ph => 1#2
  | .sh => 2#2
  | .ud => 3#2

/-! ## Decoding -/

/-- Why a word is no command; each of them raises IllegalCommand (30_encoding R109). -/
inductive DecodeError where
  /-- OP is 0x00 or 0x07..0x1F (30_encoding R108) -/
  | illegalOpcode
  /-- a bit of 13:0 is set (30_encoding R106) -/
  | reservedBits
  /-- M is not 0 in a READ_BITS (30_encoding R101) -/
  | modeField
  /-- A or N is not 0 in a HUFF or EXTRACT (30_encoding R101) -/
  | advanceOrWidth
  /-- a bit of 26:14 is set in an ALIGN, CONSTRUCT or GET_SAMPLES (30_encoding R101) -/
  | operandBits
  /-- an EXTRACT with table select 2 to 7 (30_encoding R107) -/
  | tableSelect
deriving DecidableEq, Repr

/-- What decoding a word gives: a command or the reason there is none. -/
inductive Decoded where
  | ok (i : Instr)
  | rejected (e : DecodeError)
deriving DecidableEq, Repr

/-- The checks of 30_encoding R109 in their order, then the command. -/
def decode (v : Word) : Decoded :=
  let op := (fieldOp v).toNat
  if op = 0 ∨ 6 < op then .rejected .illegalOpcode
  else if fieldReserved v ≠ 0 then .rejected .reservedBits
  else if op = 1 ∧ fieldM v ≠ 0 then .rejected .modeField
  else if (op = 3 ∨ op = 4) ∧ (fieldA v ≠ 0 ∨ fieldN v ≠ 0) then .rejected .advanceOrWidth
  else if (op = 2 ∨ op = 5 ∨ op = 6) ∧ fieldOperands v ≠ 0 then .rejected .operandBits
  else if op = 4 ∧ 1 < (fieldM v).toNat then .rejected .tableSelect
  else if op = 1 then .ok (.readBits (bselOf (fieldBsel v)) (fieldA v == 1#1) (fieldN v))
  else if op = 2 then .ok .align
  else if op = 3 then .ok (.huff (bselOf (fieldBsel v)) (fieldM v))
  else if op = 4 then .ok (.extract (bselOf (fieldBsel v)) (fieldM v))
  else if op = 5 then .ok .construct
  else .ok .getSamples

/-- The decoder's answer with the reason for a rejection dropped. -/
def decodeInstr (v : Word) : Option Instr :=
  match decode v with
  | .ok i => some i
  | .rejected _ => none

/-- The command word that the low `nbits` bits of `w` stand for, every bit above them 0. A command is one word
(30_encoding R110), so bits past the 32nd belong to nothing. -/
def tableWord (nbits w : Nat) : Word := BitVec.ofNat 32 (w % 2 ^ nbits)

/-- The instruction the decoder reads from a word numbered as spec/opcode_table.json numbers its bits. -/
def decodeTableWord (nbits w : Nat) : Option Instr := decodeInstr (tableWord nbits w)

/-! ## Encoding -/

/-- A command word from its fields (30_encoding R100): OP, BSEL, M, A, N and the reserved zeros. -/
def packFields (op : BitVec 5) (bsel : BitVec 2) (m : BitVec 3) (a : BitVec 1) (n : BitVec 7) : Word :=
  op ++ bsel ++ m ++ a ++ n ++ 0#14

/-- The word of a command (30_encoding R101). -/
def encode : Instr → Word
  | .readBits b a n => packFields 1#5 (bselCode b) 0#3 (BitVec.ofBool a) n
  | .align => packFields 2#5 0#2 0#3 0#1 0#7
  | .huff b m => packFields 3#5 (bselCode b) m 0#1 0#7
  | .extract b t => packFields 4#5 (bselCode b) t 0#1 0#7
  | .construct => packFields 5#5 0#2 0#3 0#1 0#7
  | .getSamples => packFields 6#5 0#2 0#3 0#1 0#7

end Sys2Proof
end

