-- ==== Sys2Proof/Machine/Header.lean ====
section
/-! DEFINITION. The header extractor and EXTRACT (42_header_extractor R200 to R208). -/

namespace Sys2Proof.Machine

/-- `Extract(B, tab)` from bit offset `off` on (42_header_extractor R201): the rows in order, each read at the running
offset and zero-extended to 64 bits. -/
def extractFields (c : Config) (buf : Buffer) : (tab : List Field) → (off : Nat) → Except Raise (List (BitVec 64))
  | [], _ => .ok []
  | f :: fs, off =>
    match readBits c buf off f.width with
    | .error e => .error e
    | .ok v =>
      match extractFields c buf fs (off + f.width) with
      | .error e => .error e
      | .ok vs => .ok (BitVec.ofNat 64 v :: vs)

/-- The body of EXTRACT with a legal table select (42_header_extractor R200): buffer and table are independent, and the
offset starts at bit 0 of the buffer (92 D45). -/
def extractResult (b : BufSel) (secondary : Bool) (s : State) : Except Raise State :=
  match extractFields s.cfg (selBuf s b) (selTable s.cfg secondary) 0 with
  | .error e => .error e
  | .ok vals => .ok (setMap s secondary vals)

/-- EXTRACT (42_header_extractor R200). A table select of 2 to 7 raises IllegalCommand with the command's word
(30_encoding R107); the decoder turns such a word away itself, so no step reaches that case (log 15). -/
def execExtract (b : BufSel) (t : BitVec 3) (s : State) : Host.Outcome State Fault Refusal :=
  if 1 < t.toNat then .next (complete s (.error ⟨.illegalCommand, (encode (.extract b t)).toNat⟩))
  else .next (complete s (extractResult b (t.toNat == 1) s))

end Sys2Proof.Machine
end

