-- ==== Sys2Proof/Machine/Huffman.lean ====
section
/-! DEFINITION. The Huffman decoder and HUFF (41_huffman R170 to R177). -/

namespace Sys2Proof.Machine

/-- `HUFF_TABLE[b][(len, code)]` (41_huffman R170). -/
def huffLookup (t : ModeTables) (len code : Nat) : Option Byte :=
  (t.huff.find? fun e => e.len == len && e.code == code).map HuffEntry.sym

/-- The loop of 41_huffman R172 from length `len` on, with `fuel` lengths left up to HUFF_MAX_LEN. Every attempt reads
the whole prefix from `c` (41_huffman R173), and the read stands before the look-up (41_huffman R174). -/
def huffLoop (cfg : Config) (buf : Buffer) (t : ModeTables) (c : Nat) : (fuel len : Nat) → Except Raise (Byte × Nat)
  | 0, _ => .error ⟨.huffmanDecodeError, c⟩
  | fuel + 1, len =>
    match readBits cfg buf c len with
    | .error e => .error e
    | .ok v =>
      match huffLookup t len v with
      | some sym => .ok (sym, len)
      | none => huffLoop cfg buf t c fuel (len + 1)

/-- The lengths START_LEN[b] .. HUFF_MAX_LEN in turn. -/
def huffSearch (cfg : Config) (buf : Buffer) (b c : Nat) : Except Raise (Byte × Nat) :=
  let t := cfg.mode b
  huffLoop cfg buf t c (cfg.huffMaxLen + 1 - t.startLen) t.startLen

/-- `HuffDecode(B, b, c)` (41_huffman R172): InvalidBrc first, then for BRC 4 the zero-prefix shortcut (41_huffman R171),
then the table. -/
def huffDecode (cfg : Config) (buf : Buffer) (b c : Nat) : Except Raise (Byte × Nat) :=
  if cfg.brcMax < b then .error ⟨.invalidBrc, c⟩
  else if b = 4 then
    match readBits cfg buf c cfg.scPlen with
    | .error e => .error e
    | .ok p => if p = 0 then .ok (0#8, cfg.scAdv) else huffSearch cfg buf b c
  else huffSearch cfg buf b c

/-- The body of HUFF (41_huffman R175). -/
def huffResult (b : BufSel) (m : BitVec 3) (s : State) : Except Raise State :=
  match huffDecode s.cfg (selBuf s b) m.toNat s.cur.toNat with
  | .error e => .error e
  | .ok (sym, len) => .ok (setCur (setHuff s sym len) (s.cur.toNat + len))

/-- HUFF (41_huffman R175). -/
def execHuff (b : BufSel) (m : BitVec 3) (s : State) : Host.Outcome State Fault Refusal :=
  .next (complete s (huffResult b m s))

end Sys2Proof.Machine
end

