-- ==== Sys2Proof/Machine/Packet.lean ====
section
/-! DEFINITION. Packet construction and CONSTRUCT (43_packet R220 to R225). -/

namespace Sys2Proof.Machine

/-- `Classify(bm, tm)` (43_packet R224); `none` is InvalidBaqMode. -/
def classify (bm tm : Nat) : Option Format :=
  if bm = 0 then (if tm % 3 = 0 then some .a else some .b)
  else if bm = 3 ∨ bm = 4 ∨ bm = 5 then some .c
  else if bm = 12 ∨ bm = 13 ∨ bm = 14 then some .d
  else none

/-- `MAP[0][packet_data_length]`. -/
def mapDataLength (s : State) : Nat := (lookupField s.cfg.phTable s.map0 .packetDataLength).toNat

/-- `MAP[1][baq_mode]`. -/
def mapBaqMode (s : State) : Nat := (lookupField s.cfg.shTable s.map1 .baqMode).toNat

/-- `MAP[1][test_mode]`. -/
def mapTestMode (s : State) : Nat := (lookupField s.cfg.shTable s.map1 .testMode).toNat

/-- `MAP[1][number_of_quads]`. -/
def mapQuads (s : State) : Nat := (lookupField s.cfg.shTable s.map1 .numberOfQuads).toNat

/-- The user-data length the primary header declares, a signed integer (43_packet R221). -/
def expectedLength (s : State) : Int := (mapDataLength s : Int) + 1 - s.cfg.shSize

/-- The body of CONSTRUCT (43_packet R222), its three checks in their order. -/
def constructResult (s : State) : Except Raise State :=
  if ¬ (s.status.map0Valid ∧ s.status.map1Valid) then .error ⟨.sequenceError, 0⟩
  else if (bufLen s.ud : Int) ≠ expectedLength s then .error ⟨.lengthMismatch, bufLen s.ud⟩
  else
    match classify (mapBaqMode s) (mapTestMode s) with
    | none => .error ⟨.invalidBaqMode, mapBaqMode s⟩
    | some fmt => .ok (setPacket s (mapBaqMode s) (mapTestMode s) fmt (mapQuads s))

/-- CONSTRUCT (43_packet R222). -/
def execConstruct (s : State) : Host.Outcome State Fault Refusal :=
  .next (complete s (constructResult s))

end Sys2Proof.Machine
end

