-- ==== Sys2Proof/Machine/Decoding.lean ====
section
/-! DEFINITION. The two sample decode paths: Type A/B (45_type_ab_path) and Type D (44_type_d_path). -/

namespace Sys2Proof.Machine

/-- A decoded code: its sign bit (1 is negative) and its magnitude (00_scope R18, 10_state R50). -/
structure Code where
  sign : Bool
  mag : Nat
deriving DecidableEq, Repr

/-- `Interleave(S, nq)` (44_type_d_path R270): per quad the samples (S_IE, S_QE) and (S_IO, S_QO). -/
def interleave : (ie io qe qo : List SVal) → List (SVal × SVal)
  | i :: ie, j :: io, k :: qe, l :: qo => (i, k) :: (j, l) :: interleave ie io qe qo
  | _, _, _, _ => []

/-! ## Type A and B (45_type_ab_path R300 to R303) -/

/-- The S-value of a Type A/B code (45_type_ab_path R300). -/
def reconAB (c : Config) (k : Code) : SVal := applySign c k.sign (svalOfInt k.mag)

/-- `n` codes from cursor `ic` on: sign first, then the magnitude (45_type_ab_path R303). -/
def codesAB (c : Config) (ud : Buffer) : (n ic : Nat) → Except Raise (List Code × Nat)
  | 0, ic => .ok ([], ic)
  | n + 1, ic =>
    match readBits c ud ic c.abSignBits with
    | .error e => .error e
    | .ok sg =>
      match readBits c ud (ic + c.abSignBits) c.abMagBits with
      | .error e => .error e
      | .ok mag =>
        match codesAB c ud n (ic + c.abSignBits + c.abMagBits) with
        | .error e => .error e
        | .ok (ks, ic') => .ok (⟨sg == 1, mag⟩ :: ks, ic')

/-- One component: its S-values, and the cursor at the next word boundary (45_type_ab_path R301). -/
def componentAB (c : Config) (ud : Buffer) (nq ic : Nat) : Except Raise (List SVal × Nat) :=
  match codesAB c ud nq ic with
  | .error e => .error e
  | .ok (ks, ic') => .ok (ks.map (reconAB c), alignUp c.wordUnit ic')

/-- `DecodeAB(nq)` (45_type_ab_path R300): IE, IO, QE, QO in that order (45_type_ab_path R302) from bit 0 of UD. -/
def decodeAB (c : Config) (ud : Buffer) (nq : Nat) : Except Raise (List (SVal × SVal) × Nat) :=
  match componentAB c ud nq 0 with
  | .error e => .error e
  | .ok (ie, ic1) =>
    match componentAB c ud nq ic1 with
    | .error e => .error e
    | .ok (io, ic2) =>
      match componentAB c ud nq ic2 with
      | .error e => .error e
      | .ok (qe, ic3) =>
        match componentAB c ud nq ic3 with
        | .error e => .error e
        | .ok (qo, ic4) => .ok (interleave ie io qe qo, ic4)

/-! ## Type D (44_type_d_path R260 to R271) -/

/-- The decode context threaded through the components: the private cursor IC and the side information read so far
(10_state R50, 44_type_d_path R265). -/
structure DecodeCtx where
  ic : Nat
  brc : List (BitVec 3)
  thidx : List (BitVec 8)
deriving DecidableEq, Repr

/-- `BlockLen(b, nq, nb)` (44_type_d_path R261). A length below 0, which no NB of a CONSTRUCT gives, decodes no sample
just as its loop would. -/
def blockLen (c : Config) (b nq nb : Nat) : Nat :=
  if b + 1 < nb then c.blockQ else nq - c.blockQ * (nb - 1)

/-- The side information at the start of a block: BRC in IE (44_type_d_path R262), the threshold index in QE
(44_type_d_path R263, no bound check), nothing in IO and QO. -/
def blockHeader (c : Config) (ud : Buffer) (comp : Component) (x : DecodeCtx) : Except Raise DecodeCtx :=
  match comp with
  | .ie =>
    match readBits c ud x.ic c.brcBits with
    | .error e => .error e
    | .ok v =>
      if c.brcMax < v then .error ⟨.invalidBrc, x.ic⟩
      else .ok { x with ic := x.ic + c.brcBits, brc := x.brc ++ [BitVec.ofNat 3 v] }
  | .qe =>
    match readBits c ud x.ic c.thidxBits with
    | .error e => .error e
    | .ok v => .ok { x with ic := x.ic + c.thidxBits, thidx := x.thidx ++ [BitVec.ofNat 8 v] }
  | .io => .ok x
  | .qo => .ok x

/-- `n` samples of a block under mode `b` (44_type_d_path R264): the sign bit, then the Huffman code of the magnitude. -/
def samplesD (c : Config) (ud : Buffer) (b : Nat) : (n ic : Nat) → Except Raise (List Code × Nat)
  | 0, ic => .ok ([], ic)
  | n + 1, ic =>
    match readBits c ud ic 1 with
    | .error e => .error e
    | .ok sg =>
      match huffDecode c ud b (ic + 1) with
      | .error e => .error e
      | .ok (sym, len) =>
        match samplesD c ud b n (ic + 1 + len) with
        | .error e => .error e
        | .ok (ks, ic') => .ok (⟨sg == 1, sym.toNat⟩ :: ks, ic')

/-- The blocks `b`, `b + 1`, ... of a component, `left` of them (44_type_d_path R260). -/
def blocksD (c : Config) (ud : Buffer) (comp : Component) (nq nb : Nat) :
    (left b : Nat) → (x : DecodeCtx) → Except Raise (List Code × DecodeCtx)
  | 0, _, x => .ok ([], x)
  | left + 1, b, x =>
    match blockHeader c ud comp x with
    | .error e => .error e
    | .ok y =>
      match samplesD c ud (brcAt y.brc b).toNat (blockLen c b nq nb) y.ic with
      | .error e => .error e
      | .ok (ks, ic) =>
        match blocksD c ud comp nq nb left (b + 1) { y with ic := ic } with
        | .error e => .error e
        | .ok (rest, z) => .ok (ks ++ rest, z)

/-- One component: all its blocks, then the cursor at the next word boundary (44_type_d_path R266). -/
def componentD (c : Config) (ud : Buffer) (comp : Component) (nq nb : Nat) (x : DecodeCtx) :
    Except Raise (List Code × DecodeCtx) :=
  match blocksD c ud comp nq nb nb 0 x with
  | .error e => .error e
  | .ok (ks, y) => .ok (ks, { y with ic := alignUp c.wordUnit y.ic })

/-- `ReconD(b, t, s, m)` (44_type_d_path R267, R268, R269). -/
def reconD (c : Config) (b t : Nat) (k : Code) : Except Raise SVal :=
  let md := c.mode b
  if t ≤ md.thidxMax then
    if (k.mag : Int) < md.mCode then .ok (applySign c k.sign (svalOfInt k.mag))
    else if (k.mag : Int) = md.mCode then .ok (applySign c k.sign (md.simple.getD t (.int 0)))
    else .error ⟨.invalidMagnitudeCode, 0⟩
  else if md.normalized.length ≤ k.mag then .error ⟨.invalidMagnitudeCode, 0⟩
  else .ok (applySign c k.sign (Config.mul (md.normalized.getD k.mag (.int 0)) (c.scale.getD t (.int 0))))

/-- The S-values of a component from quad `q` on, each under the side information of its block (44_type_d_path R260). -/
def reconFrom (c : Config) (x : DecodeCtx) : (ks : List Code) → (q : Nat) → Except Raise (List SVal)
  | [], _ => .ok []
  | k :: ks, q =>
    match reconD c (brcAt x.brc (q / c.blockQ)).toNat (thidxAt x.thidx (q / c.blockQ)).toNat k with
    | .error e => .error e
    | .ok v =>
      match reconFrom c x ks (q + 1) with
      | .error e => .error e
      | .ok vs => .ok (v :: vs)

/-- The codes of the four components, decoded in the order IE, IO, QE, QO (44_type_d_path R265), with the context at the
end. -/
def codesD (c : Config) (ud : Buffer) (nq nb : Nat) :
    Except Raise (List Code × List Code × List Code × List Code × DecodeCtx) :=
  match componentD c ud .ie nq nb ⟨0, [], []⟩ with
  | .error e => .error e
  | .ok (ie, x1) =>
    match componentD c ud .io nq nb x1 with
    | .error e => .error e
    | .ok (io, x2) =>
      match componentD c ud .qe nq nb x2 with
      | .error e => .error e
      | .ok (qe, x3) =>
        match componentD c ud .qo nq nb x3 with
        | .error e => .error e
        | .ok (qo, x4) => .ok (ie, io, qe, qo, x4)

/-- `DecodeD(nq, nb)` (44_type_d_path R260): every component decoded before any sample is reconstructed
(44_type_d_path R271). Gives the samples and the side information. -/
def decodeD (c : Config) (ud : Buffer) (nq nb : Nat) :
    Except Raise (List (SVal × SVal) × List (BitVec 3) × List (BitVec 8)) :=
  match codesD c ud nq nb with
  | .error e => .error e
  | .ok (ie, io, qe, qo, x) =>
    match reconFrom c x ie 0 with
    | .error e => .error e
    | .ok sie =>
      match reconFrom c x io 0 with
      | .error e => .error e
      | .ok sio =>
        match reconFrom c x qe 0 with
        | .error e => .error e
        | .ok sqe =>
          match reconFrom c x qo 0 with
          | .error e => .error e
          | .ok sqo => .ok (interleave sie sio sqe sqo, x.brc, x.thidx)

end Sys2Proof.Machine
end

