-- ==== Sys2Proof/Machine/Samples.lean ====
section
/-! DEFINITION. GET_SAMPLES (43_packet R226 to R233). -/

namespace Sys2Proof.Machine

/-- The decode of a packet that is constructed and not cached, by its format (43_packet R226, R228). -/
def decodePacket (s : State) : Except Raise State :=
  match s.fmt with
  | .c => .error ⟨.unsupportedFormat, 0⟩
  | .a | .b =>
    match decodeAB s.cfg s.ud s.nq.toNat with
    | .error e => .error e
    | .ok (out, _) => .ok (cacheSamples s out)
  | .d =>
    match decodeD s.cfg s.ud s.nq.toNat s.nb.toNat with
    | .error e => .error e
    | .ok (out, brc, thidx) => .ok (cacheSamples (setSide s brc thidx) out)

/-- The body of GET_SAMPLES (43_packet R226): a cached packet returns at once (43_packet R227). -/
def getSamplesResult (s : State) : Except Raise State :=
  if ¬ s.status.pktValid then .error ⟨.sequenceError, 0⟩
  else if s.status.cacheValid then .ok s
  else decodePacket s

/-- A GET_SAMPLES in this state decodes a Type D packet. -/
def decodesTypeD (s : State) : Bool := s.status.pktValid && !s.status.cacheValid && s.fmt == .d

/-- What a failing GET_SAMPLES leaves of the state before the error is recorded: BRC and THIDX unspecified where a Type D
decode failed (43_packet R231, 60_exceptions R325; log 9, log 11), everything else as it was. -/
def afterFailedSamples (s : State) : State := if decodesTypeD s then scrambleSide s else s

/-- GET_SAMPLES (43_packet R226). -/
def execGetSamples (s : State) : Host.Outcome State Fault Refusal :=
  match getSamplesResult s with
  | .ok s' => .next (complete s (.ok s'))
  | .error e => .next (complete (afterFailedSamples s) (.error e))

end Sys2Proof.Machine
end

