-- ==== Sys2Proof/Machine/Dispatch.lean ====
section
/-! DEFINITION. One arm per command (30_encoding R101). -/

namespace Sys2Proof.Machine

def exec (i : Instr) (s : State) : Host.Outcome State Fault Refusal :=
  match i with
  | .readBits b a n => Sys2Proof.Machine.execReadBits b a n s
  | .align => Sys2Proof.Machine.execAlign s
  | .huff b m => Sys2Proof.Machine.execHuff b m s
  | .extract b t => Sys2Proof.Machine.execExtract b t s
  | .construct => Sys2Proof.Machine.execConstruct s
  | .getSamples => Sys2Proof.Machine.execGetSamples s

end Sys2Proof.Machine
end

