-- ==== Sys2Proof/Machine/HostPort.lean ====
section
/-! DEFINITION. The transactions of the host (60_exceptions R345) and the pseudo-instructions made of them
(30_encoding R113). -/

namespace Sys2Proof.Machine

/-- A host write of `v` to CMD (10_state R42): BUSY is set, the command runs and clears it. A word that is no command
raises IllegalCommand with the word itself and has no other effect (30_encoding R109). -/
def writeCommand (v : Word) (s : State) : Host.Outcome State Fault Refusal :=
  match decode v with
  | .ok i => exec i (startCommand s)
  | .rejected _ => .next (complete (startCommand s) (.error ⟨.illegalCommand, v.toNat⟩))

/-- WR r, v (60_exceptions R345): CMD, CUR and the write-1 bit of STATUS (10_state R36) act; a write to a read-only or
reserved register is ignored (10_state R43). -/
def writeRegister (r : BitVec 6) (v : Word) (s : State) : Host.Outcome State Fault Refusal :=
  if r = 0#6 then writeCommand v s
  else if r = 1#6 then .next (if v.getLsbD 1 then clearErr s else s)
  else if r = 2#6 then .next { s with cur := v }
  else .next s

/-- A row is in the map: MAPT_VALID = 1 and the table has the row (10_state R54). -/
def mapReadable (s : State) (secondary : Bool) (i : Nat) : Bool :=
  mapValid s secondary && i < (selTable s.cfg secondary).length

/-- CACHE_VALID = 1 and k < 2·NQ (10_state R48, R54). -/
def outReadable (s : State) (k : Nat) : Bool := s.status.cacheValid && k < 2 * s.nq.toNat

/-- CACHE_VALID = 1, FMT = D and b < NB (10_state R47, R54). -/
def sideReadable (s : State) (b : Nat) : Bool := s.status.cacheValid && s.fmt == .d && b < s.nb.toNat

/-- The host is given `r` back. -/
def giveReply (s : State) (r : Reply) : State := { s with reply := some r }

/-- The reply of RDOUT: the encodings of a sample (60_exceptions R345, 92 D27). -/
def sampleReply (x : SVal × SVal) : Reply := .sample (Config.enc x.1) (Config.enc x.2)

/-- One transaction (60_exceptions R345). RD and RESET have no precondition; every other one is a host-protocol fault
while BUSY = 1 (70_reset_and_hazards R371), and so is one that breaks its own duty (10_state R54, 60_exceptions R346). -/
def transact (t : Transaction) (s : State) : Host.Outcome State Fault Refusal :=
  match t with
  | .reset => .next (resetCore s)
  | .load b bytes =>
    if s.status.busy then .fault .hostWhileBusy
    else if capacity s.cfg b < bytes.length then .fault .loadOverCapacity
    else .next (loadBuffer s b bytes)
  | .wr r v => if s.status.busy then .fault .hostWhileBusy else writeRegister r v s
  | .rd r => .next (giveReply s (.register (readRegister s r)))
  | .rdMap secondary i =>
    if s.status.busy then .fault .hostWhileBusy
    else if mapReadable s secondary i then .next (giveReply s (.field ((selMap s secondary).getD i 0#64)))
    else .fault .readInvalidMap
  | .rdOut k =>
    if s.status.busy then .fault .hostWhileBusy
    else if outReadable s k then .next (giveReply s (sampleReply (outAt s.out k)))
    else .fault .readInvalidOut
  | .rdSide b =>
    if s.status.busy then .fault .hostWhileBusy
    else if sideReadable s b then .next (giveReply s (.side (brcAt s.brc b) (thidxAt s.thidx b)))
    else .fault .readInvalidSide

/-- The bus address at which the host reaches what a transaction names: a register (10_state R43), the first byte of a
buffer's window, or an entry of an array's window (20_memory R86, 92 D3, D42; log 21). RESET is no access. -/
def busAddress (t : Transaction) : Option Nat :=
  match t with
  | .reset => none
  | .load b _ => some (Config.windowEntry (.buffer b) 0)
  | .wr r _ => some (registerAddress r)
  | .rd r => some (registerAddress r)
  | .rdMap secondary i => some (Config.windowEntry (.map secondary) i)
  | .rdOut k => some (Config.windowEntry .out k)
  | .rdSide b => some (Config.windowEntry .side b)

/-- The next transaction taken off the queue, and the last reply gone (log 5). -/
def takeNext (s : State) (rest : List Transaction) : State := { s with pending := rest, reply := none }

/-- What the core does next: the host's next transaction, or nothing while there is none (60_exceptions R344,
70_reset_and_hazards R362). -/
def hostStep (s : State) : Host.Outcome State Fault Refusal :=
  match s.pending with
  | [] => .next s
  | t :: rest => transact t (takeNext s rest)

/-- The transaction that issues the command word `v` as the host's next one. -/
def issueWord (v : Word) (s : State) : State :=
  { s with pending := .wr 0#6 v :: s.pending, status := { s.status with busy := false } }

/-! ## Assembler lines (30_encoding R112, R113) -/

/-- A command as the host issues it: its word written to CMD. -/
def asmCommand (i : Instr) : List Transaction := [.wr 0#6 (encode i)]

/-- `.word v`: any raw command word. -/
def asmWord (v : Word) : List Transaction := [.wr 0#6 v]

/-- `SKIP buf, n`. -/
def asmSkip (b : BufSel) (n : BitVec 7) : List Transaction := asmCommand (.readBits b true n)

/-- `SETCUR v`. -/
def asmSetCur (v : Word) : List Transaction := [.wr 2#6 v]

/-- `CLRERR`. -/
def asmClrErr : List Transaction := [.wr 1#6 2#32]

/-- `DECODE_PACKET`. -/
def asmDecodePacket : List Transaction :=
  asmCommand (.extract .ph 0#3) ++ asmCommand (.extract .sh 1#3) ++ asmCommand .construct ++ asmCommand .getSamples

end Sys2Proof.Machine
end

