-- ==== Sys2Proof/Machine/Step.lean ====
section
/-! DEFINITION. One step of the machine: one host transaction, with the whole command where it is a CMD write
(00_scope R6, 20_memory R88). -/

namespace Sys2Proof.Machine

/-- One step (20_memory R88, 70_reset_and_hazards R370). -/
def step (s : State) : Host.Outcome State Fault Refusal := hostStep s

/-- `s` with a CMD write of the given word as the host's next transaction and BUSY = 0, so that the next step runs that
command (log 5: how a program comes to run). -/
def State.withFetchWord (s : State) (nbits w : Nat) : State := issueWord (tableWord nbits w) s

end Sys2Proof.Machine
end

