-- ==== Sys2Proof/Safety.lean ====
section
/-! DEFINITION. What a safe run is, and the predicates that statements use: the host's duties (60_exceptions R345, R346), the
invariants of 10_state R52, and when two buffers or states look alike. -/

namespace Sys2Proof.Machine

/-- The host may issue the transaction in this state (60_exceptions R345, R346, 70_reset_and_hazards R371); which of them it may
issue while BUSY = 1 is the model's reading (log 16, log 17). -/
def HostDuty (t : Transaction) (s : State) : Prop :=
  match t with
  | .reset => True
  | .rd _ => True
  | .wr _ _ => s.status.busy = false
  | .load b bytes => s.status.busy = false ∧ bytes.length ≤ capacity s.cfg b
  | .rdMap secondary i =>
    s.status.busy = false ∧ mapValid s secondary = true ∧ i < (selTable s.cfg secondary).length
  | .rdOut k => s.status.busy = false ∧ s.status.cacheValid = true ∧ k < 2 * s.nq.toNat
  | .rdSide b =>
    s.status.busy = false ∧ s.status.cacheValid = true ∧ s.fmt = .d ∧ b < s.nb.toNat

/-- The next step keeps the host protocol: no transaction is pending, or the pending one keeps its duty. -/
def SafeStep (s : State) : Prop :=
  match s.pending with
  | [] => True
  | t :: _ => HostDuty t s

/-- The invariants between any two transactions (10_state R52). -/
structure State.Consistent (s : State) : Prop where
  /-- BUSY = 0 -/
  idle : s.status.busy = false
  /-- CACHE_VALID = 1 implies PKT_VALID = 1 -/
  cached_packet : s.status.cacheValid = true → s.status.pktValid = true
  /-- PKT_VALID = 1 implies MAP0_VALID = 1 and MAP1_VALID = 1 -/
  packet_maps : s.status.pktValid = true → s.status.map0Valid = true ∧ s.status.map1Valid = true
  /-- CACHE_VALID = 1 implies UD_RELEASED = 1 and LEN[UD] = 0 -/
  cached_released : s.status.cacheValid = true → s.status.udReleased = true ∧ s.ud.len = 0#32
  /-- ERR = 0 implies MULTI_ERR = 0, ERRCODE = 0 and ERRPOS = 0 -/
  no_error : s.status.err = false → s.status.multiErr = false ∧ s.status.errCode = 0#4 ∧ s.errPos = 0#32

/-- The error codes the core produces: 1 to 7 and 9 to 12 (60_exceptions R320, R322; 93 U19). -/
def producedCode (k : BitVec 4) : Prop := 1 ≤ k.toNat ∧ k.toNat ≤ 12 ∧ k.toNat ≠ 8

/-- A header map holds one value for each row of its table, and each value fits its row's width (10_state R46). -/
def MapFits (tab : List Field) (vals : List (BitVec 64)) : Prop :=
  List.Forall₂ (fun f v => v.toNat < 2 ^ f.width) tab vals

/-- The packet registers describe a packet (43_packet R223): NQ within NQ_MAX, NB = ceil(NQ / BLOCK_Q), FMT the
classification of the two mode fields; and both header maps fit their tables, valid or not (after reset: log 7). -/
structure State.PacketOk (s : State) : Prop where
  map0_fits : MapFits s.cfg.phTable s.map0
  map1_fits : MapFits s.cfg.shTable s.map1
  nq_bound : s.nq.toNat ≤ s.cfg.nqMax
  nb_eq : s.nb.toNat = ceilDiv s.nq.toNat s.cfg.blockQ
  fmt_eq : classify s.baqMode.toNat s.testMode.toNat = some s.fmt

/-- A buffer is within its capacity, and its bytes are in canonical form. -/
def BufferOk (cap : Nat) (b : Buffer) : Prop := bufLen b ≤ cap ∧ Memory.wf b.mem = true

/-- Every buffer is within its capacity and in canonical form (10_state R44). -/
structure State.BuffersOk (s : State) : Prop where
  gb_ok : BufferOk s.cfg.capGb s.gb
  ph_ok : BufferOk s.cfg.capPh s.ph
  sh_ok : BufferOk s.cfg.capSh s.sh
  ud_ok : BufferOk s.cfg.capUd s.ud

/-- Two buffers have the same length and the same bytes below it (10_state R44). -/
def SameBytes (b b' : Buffer) : Prop :=
  bufLen b = bufLen b' ∧ ∀ a, a < bufLen b → readByte b.mem a = readByte b'.mem a

/-- A valid cache holds a whole packet: a format that decodes, 2·NQ samples, and for format D one legal BRC and one
threshold index per block (43_packet R229, 10_state R47, R48). -/
structure State.CacheOk (s : State) : Prop where
  decodable : s.status.cacheValid = true → s.fmt ≠ .c
  samples : s.status.cacheValid = true → 2 * s.nq.toNat ≤ s.out.length
  side : s.status.cacheValid = true → s.fmt = .d →
    s.nb.toNat ≤ s.brc.length ∧ s.nb.toNat ≤ s.thidx.length ∧
      ∀ b, b < s.nb.toNat → (brcAt s.brc b).toNat ≤ s.cfg.brcMax

/-! ## The illegal words, written from 30_encoding R109 by arithmetic -/

/-- The field of `len` bits from bit `lo` of a word. -/
def bitField (v : Word) (lo len : Nat) : Nat := v.toNat / 2 ^ lo % 2 ^ len

/-- The words that raise IllegalCommand: the six conditions of 30_encoding R109. -/
def IllegalWord (v : Word) : Prop :=
  (bitField v 27 5 = 0 ∨ 6 < bitField v 27 5) ∨
  bitField v 0 14 ≠ 0 ∨
  (bitField v 27 5 = 1 ∧ bitField v 22 3 ≠ 0) ∨
  ((bitField v 27 5 = 3 ∨ bitField v 27 5 = 4) ∧ (bitField v 21 1 ≠ 0 ∨ bitField v 14 7 ≠ 0)) ∨
  ((bitField v 27 5 = 2 ∨ bitField v 27 5 = 5 ∨ bitField v 27 5 = 6) ∧ bitField v 14 13 ≠ 0) ∨
  (bitField v 27 5 = 4 ∧ 1 < bitField v 22 3)

/-! ## Type A/B user data in closed form (30_encoding R116, 45_type_ab_path R300 to R304) -/

/-- The bits of one Type A/B code. -/
def abCodeBits (c : Config) : Nat := c.abSignBits + c.abMagBits

/-- The bits a component takes with its padding. -/
def abComponentBits (c : Config) (nq : Nat) : Nat := alignUp c.wordUnit (abCodeBits c * nq)

/-- The bit offset of the code of quad `q` in the component numbered `k` (00_scope R16). -/
def abCodeStart (c : Config) (nq k q : Nat) : Nat := k * abComponentBits c nq + abCodeBits c * q

/-- The S-value of that code: its sign bit, then its magnitude. -/
def abValue (c : Config) (ud : Buffer) (nq k q : Nat) : SVal :=
  applySign c (bitsValue ud (abCodeStart c nq k q) c.abSignBits == 1)
    (svalOfInt (bitsValue ud (abCodeStart c nq k q + c.abSignBits) c.abMagBits))

/-- The complex samples of the packet: (IE, QE) and (IO, QO) of every quad in order. -/
def abSamples (c : Config) (ud : Buffer) (nq : Nat) : List (SVal × SVal) :=
  (List.range nq).flatMap fun q =>
    [(abValue c ud nq 0 q, abValue c ud nq 2 q), (abValue c ud nq 1 q, abValue c ud nq 3 q)]

/-- The bits the user data must hold: the padding after the last component may be missing (45_type_ab_path R304). -/
def abBitsNeeded (c : Config) (nq : Nat) : Nat := 3 * abComponentBits c nq + abCodeBits c * nq

/-- The code of quad `q` in the component numbered `k` is the first, in decode order, that passes the end of the buffer. -/
def AbFirstMissing (c : Config) (ud : Buffer) (nq k q : Nat) : Prop :=
  (k < 4 ∧ q < nq) ∧ 8 * bufLen ud < abCodeStart c nq k q + abCodeBits c ∧
    ∀ k' q', q' < nq → k' < k ∨ (k' = k ∧ q' < q) → abCodeStart c nq k' q' + abCodeBits c ≤ 8 * bufLen ud

/-- Where the failing read of that code starts: at its magnitude if only that is missing (60_exceptions R327). -/
def abFailOffset (c : Config) (ud : Buffer) (nq k q : Nat) : Nat :=
  if abCodeStart c nq k q + c.abSignBits ≤ 8 * bufLen ud then abCodeStart c nq k q + c.abSignBits
  else abCodeStart c nq k q

/-! ## Type D user data as it is laid out (30_encoding R117, 44_type_d_path R260 to R266) -/

/-- The side information at the start of a block (30_encoding R117): a BRC in IE, a threshold index in QE. -/
def sideBits (c : Config) : Component → Nat
  | .ie => c.brcBits
  | .qe => c.thidxBits
  | .io => 0
  | .qo => 0

/-- The place of a component in the decode order (00_scope R16). -/
def componentNumber : Component → Nat
  | .ie => 0
  | .io => 1
  | .qe => 2
  | .qo => 3

/-- A layout of Type D user data: for quad `q` of a component, the bit offset `cur` of what belongs to it (the side
information of its block where it is the block's first), and the symbol, code length and S-value of its sample. -/
structure Layout where
  cur : Component → Nat → Nat
  sym : Component → Nat → Byte
  len : Component → Nat → Nat
  val : Component → Nat → SVal

/-- The bit offset of the sign bit of a quad. -/
def Layout.signAt (l : Layout) (c : Config) (k : Component) (q : Nat) : Nat :=
  l.cur k q + if q % c.blockQ = 0 then sideBits c k else 0

/-- IE starts at bit 0, and each further component at the word boundary after the one before it. -/
def Layout.Starts (l : Layout) (c : Config) (nq : Nat) : Prop :=
  l.cur .ie 0 = 0 ∧ l.cur .io 0 = alignUp c.wordUnit (l.cur .ie nq) ∧
    l.cur .qe 0 = alignUp c.wordUnit (l.cur .io nq) ∧ l.cur .qo 0 = alignUp c.wordUnit (l.cur .qe nq)

/-- The side information before a quad's sample, where there is any, is the entry of its block: the BRC at most BRC_MAX. -/
def Layout.SideRead (l : Layout) (c : Config) (ud : Buffer) (brc : List (BitVec 3)) (thidx : List (BitVec 8))
    (k : Component) (q : Nat) : Prop :=
  q % c.blockQ = 0 →
    match k with
    | .ie => l.cur .ie q + c.brcBits ≤ 8 * bufLen ud ∧ bitsValue ud (l.cur .ie q) c.brcBits ≤ c.brcMax ∧
        (brcAt brc (q / c.blockQ)).toNat = bitsValue ud (l.cur .ie q) c.brcBits
    | .qe => l.cur .qe q + c.thidxBits ≤ 8 * bufLen ud ∧
        (thidxAt thidx (q / c.blockQ)).toNat = bitsValue ud (l.cur .qe q) c.thidxBits
    | .io => True
    | .qo => True

/-- Quad `q` of a component is read as laid out: side information, sign bit, then the Huffman code under the BRC of its
block, with the next quad right behind it. -/
def Layout.QuadRead (l : Layout) (c : Config) (ud : Buffer) (brc : List (BitVec 3)) (thidx : List (BitVec 8))
    (k : Component) (q : Nat) : Prop :=
  l.SideRead c ud brc thidx k q ∧ l.signAt c k q + 1 ≤ 8 * bufLen ud ∧
    huffDecode c ud (brcAt brc (q / c.blockQ)).toNat (l.signAt c k q + 1) = .ok (l.sym k q, l.len k q) ∧
    l.cur k (q + 1) = l.signAt c k q + 1 + l.len k q

/-- The S-value of a quad is its code reconstructed under the side information of its block. -/
def Layout.Valued (l : Layout) (c : Config) (ud : Buffer) (brc : List (BitVec 3)) (thidx : List (BitVec 8))
    (k : Component) (q : Nat) : Prop :=
  reconD c (brcAt brc (q / c.blockQ)).toNat (thidxAt thidx (q / c.blockQ)).toNat
    ⟨bufBit ud (l.signAt c k q), (l.sym k q).toNat⟩ = .ok (l.val k q)

/-- The samples of a layout: (IE, QE) and (IO, QO) of every quad in order. -/
def Layout.samples (l : Layout) (nq : Nat) : List (SVal × SVal) :=
  (List.range nq).flatMap fun q => [(l.val .ie q, l.val .qe q), (l.val .io q, l.val .qo q)]

/-- Reading quad `q` of a component raises `e`, with the position of 60_exceptions R327: at its BRC or threshold index if that
is missing, at its BRC if that is above BRC_MAX, at its sign bit if that is missing, at its code if that decodes to none. -/
def Layout.QuadFails (l : Layout) (c : Config) (ud : Buffer) (brc : List (BitVec 3)) (thidx : List (BitVec 8))
    (k : Component) (q : Nat) (e : Raise) : Prop :=
  (q % c.blockQ = 0 ∧ 8 * bufLen ud < l.cur k q + sideBits c k ∧ 1 ≤ sideBits c k ∧ e = ⟨.bufferTooShort, l.cur k q⟩) ∨
  (q % c.blockQ = 0 ∧ k = .ie ∧ l.cur .ie q + c.brcBits ≤ 8 * bufLen ud ∧
    c.brcMax < bitsValue ud (l.cur .ie q) c.brcBits ∧ e = ⟨.invalidBrc, l.cur .ie q⟩) ∨
  (l.SideRead c ud brc thidx k q ∧ 8 * bufLen ud < l.signAt c k q + 1 ∧ e = ⟨.bufferTooShort, l.signAt c k q⟩) ∨
  (l.SideRead c ud brc thidx k q ∧ l.signAt c k q + 1 ≤ 8 * bufLen ud ∧ e.pos = l.signAt c k q + 1 ∧
    huffDecode c ud (brcAt brc (q / c.blockQ)).toNat (l.signAt c k q + 1) = .error e)

end Sys2Proof.Machine
end

