-- ==== Sys2Proof/Certificates/Slice0/Obligations.lean ====
section
/-! DEFINITION. The statements about this model, for the provers. Each docstring names the rules of spec/ it comes from. -/

open Sys2Proof Sys2Proof.Machine

/-! ## Encoding and decoding -/

/-- Decoding the word of a command gives the command back, with every operand at every value its field admits
(30_encoding R100, R101, R109). -/
def Obligations.DecodeOfEncode : Prop :=
  ∀ i : Instr, i.wf = true → decode (encode i) = .ok i

/-- A word that decodes is the word of the command it decodes to, and that command is well-formed: no two words are one
command and no bit is ignored (30_encoding R106, R108). -/
def Obligations.DecodedWordIsEncoding : Prop :=
  ∀ (v : Word) (i : Instr), decode v = .ok i → i.wf = true ∧ encode i = v

/-- The worked words of 30_encoding R114. -/
def Obligations.WorkedWordsDecode : Prop :=
  decode 0x0800C000#32 = .ok (.readBits .gb false 3#7) ∧
  decode 0x0820C000#32 = .ok (.readBits .gb true 3#7) ∧
  decode 0x08214000#32 = .ok (.readBits .gb true 5#7) ∧
  decode 0x0E100000#32 = .ok (.readBits .ud false 64#7) ∧
  decode 0x10000000#32 = .ok .align ∧
  decode 0x18C00000#32 = .ok (.huff .gb 3#3) ∧
  decode 0x1F000000#32 = .ok (.huff .ud 4#3) ∧
  decode 0x22000000#32 = .ok (.extract .ph 0#3) ∧
  decode 0x24400000#32 = .ok (.extract .sh 1#3) ∧
  decode 0x28000000#32 = .ok .construct ∧
  decode 0x30000000#32 = .ok .getSamples

/-- Every word is either illegal by the conditions of 30_encoding R109 or the word of a well-formed command. A CMD write of
an illegal word records IllegalCommand with the word as its position (60_exceptions R327) and has no other effect. -/
def Obligations.IllegalWordOnlyRecorded : Prop :=
  ∀ v : Word,
    (IllegalWord v →
      ∀ (s : State) (rest : List Transaction), s.status.busy = false → s.pending = .wr 0#6 v :: rest →
        step s = .next { s with
          pending := rest, reply := none,
          errPos := bif s.status.err then s.errPos else v,
          status := { s.status with
            lastOk := false, err := true, multiErr := s.status.multiErr || s.status.err,
            errCode := bif s.status.err then s.status.errCode else 10#4 } }) ∧
    (¬ IllegalWord v → ∃ i, i.wf = true ∧ encode i = v ∧ decode v = .ok i)

/-! ## The step -/

/-- A step whose next transaction writes to CMD a word that decodes runs that command, with BUSY set, the transaction off the
queue and the last reply gone (10_state R42, log 5). -/
def Obligations.StepRunsDecodedCommand : Prop :=
  ∀ (s : State) (v : Word) (i : Instr) (rest : List Transaction),
    s.status.busy = false → s.pending = .wr 0#6 v :: rest → decode v = .ok i →
      step s = exec i { s with pending := rest, reply := none, status := { s.status with busy := true } }

/-- With no transaction pending the core idles and keeps all state (60_exceptions R344, 70_reset_and_hazards R362). -/
def Obligations.CoreIdlesWithoutTransaction : Prop :=
  ∀ s : State, s.pending = [] → step s = .next s

/-- Every command ends, in whatever state it starts: BUSY is 0, LAST_OK or ERR is set, and the configuration, the queue and
the reply are as before (60_exceptions R347, 70_reset_and_hazards R380). -/
def Obligations.EveryCommandEnds : Prop :=
  ∀ (i : Instr) (s : State), ∃ t, exec i s = .next t ∧ t.status.busy = false ∧
    (t.status.lastOk = true ∨ t.status.err = true) ∧
    t.cfg = s.cfg ∧ t.pending = s.pending ∧ t.reply = s.reply

/-- A step stops exactly when the host breaks a duty, and it never answers with a refusal (10_state R54, 60_exceptions R345,
R346, 70_reset_and_hazards R371). Which transactions break a duty while BUSY = 1 is the model's reading: RD and RESET do not,
every other one does (log 16, log 17). That the fault ends the run, under a name of its own, is the model's choice (log 12). -/
def Obligations.StepFaultsOnBrokenDuty : Prop :=
  ∀ s : State, ((∃ f, step s = .fault f) ↔ ¬ SafeStep s) ∧ ∀ r, step s ≠ .refused r

/-- No step changes the configuration (10_state R30, 70_reset_and_hazards R364). -/
def Obligations.ConfigurationFixed : Prop :=
  ∀ s t : State, step s = .next t → t.cfg = s.cfg

/-! ## The bit reader and READ_BITS -/

/-- The value of a field: bit offset k is bit 7 - (k mod 8) of byte k div 8, and the first bit is the most significant
(20_memory R80). -/
def Obligations.FieldIsMsbFirst : Prop :=
  ∀ (c : Config) (b : Buffer) (s n : Nat), 1 ≤ n → n ≤ 64 → s + n ≤ 8 * bufLen b →
    readBits c b s n =
      .ok (∑ i ∈ Finset.range n,
        ((readByte b.mem ((s + i) / 8)).getLsbD (7 - (s + i) % 8)).toNat * 2 ^ (n - 1 - i))

/-- A multi-byte field is big-endian, and mixed widths agree (20_memory R81). -/
def Obligations.MixedWidthsAgree : Prop :=
  (∀ (c : Config) (b : Buffer), 2 ≤ bufLen b →
    readBits c b 0 16 = .ok (256 * (readByte b.mem 0).toNat + (readByte b.mem 1).toNat)) ∧
  (∀ (c : Config) (b : Buffer) (s m n x y : Nat), 1 ≤ m → 1 ≤ n → m + n ≤ 64 →
    readBits c b s m = .ok x → readBits c b (s + m) n = .ok y →
      readBits c b s (m + n) = .ok (x * 2 ^ n + y))

/-- READ_BITS (40_bit_reader R141): its word, its success, and its two errors, by which nothing else is written. -/
def Obligations.ReadBitsResult : Prop :=
  ∀ (s : State) (b : BufSel) (a : Bool) (n : BitVec 7),
    encode (.readBits b a n) = 1#5 ++ bselCode b ++ 0#3 ++ BitVec.ofBool a ++ n ++ 0#14 ∧
    (1 ≤ n.toNat → n.toNat ≤ 64 → s.cur.toNat + n.toNat ≤ 8 * bufLen (selBuf s b) →
      exec (.readBits b a n) s = .next { s with
        res := BitVec.ofNat 64 (bitsValue (selBuf s b) s.cur.toNat n.toNat),
        cur := if a then BitVec.ofNat 32 (s.cur.toNat + n.toNat) else s.cur,
        status := { s.status with resValid := true, lastOk := true, busy := false } }) ∧
    (n.toNat = 0 ∨ 64 < n.toNat →
      exec (.readBits b a n) s = .next (completeRaise s ⟨.invalidBitWidth, s.cur.toNat⟩)) ∧
    (1 ≤ n.toNat → n.toNat ≤ 64 → 8 * bufLen (selBuf s b) < s.cur.toNat + n.toNat →
      exec (.readBits b a n) s = .next (completeRaise s ⟨.bufferTooShort, s.cur.toNat⟩))

/-- The core reads no byte at or beyond LEN (10_state R44): every reader gives the same on two buffers that agree below it. -/
def Obligations.BytesBeyondLengthUnread : Prop :=
  ∀ (c : Config) (b b' : Buffer), SameBytes b b' →
    (∀ s n, readBits c b s n = readBits c b' s n) ∧
    (∀ m s, huffDecode c b m s = huffDecode c b' m s) ∧
    (∀ tab, extractFields c b tab 0 = extractFields c b' tab 0) ∧
    (∀ nq, decodeAB c b nq = decodeAB c b' nq) ∧
    (∀ nq nb, decodeD c b nq nb = decodeD c b' nq nb)

/-! ## ALIGN and the cursor -/

/-- AlignUp is the smallest multiple of W at or above its argument, and W is 16 after reset (40_bit_reader R143). -/
def Obligations.AlignUpIsLeastMultiple : Prop :=
  State.reset.cfg.wordUnit = 16 ∧
  ∀ w c : Nat, 1 ≤ w →
    w ∣ alignUp w c ∧ c ≤ alignUp w c ∧ (∀ m, w ∣ m → c ≤ m → alignUp w c ≤ m) ∧
    (w ∣ c → alignUp w c = c)

/-- ALIGN (40_bit_reader R145): its word, its success, and CursorOverflow, possible only when CUR > 2^32 - W; with W = 16
CUR stays at 0 and 16, goes from 1 to 16, from 8 to 16 and from 17 to 32. -/
def Obligations.AlignResult : Prop :=
  encode .align = 0x10000000#32 ∧
  (∀ s : State,
    (alignUp s.cfg.wordUnit s.cur.toNat < 2 ^ 32 →
      exec .align s = .next { s with
        cur := BitVec.ofNat 32 (alignUp s.cfg.wordUnit s.cur.toNat),
        status := { s.status with lastOk := true, busy := false } }) ∧
    (2 ^ 32 ≤ alignUp s.cfg.wordUnit s.cur.toNat →
      exec .align s = .next (completeRaise s ⟨.cursorOverflow, s.cur.toNat⟩) ∧
        2 ^ 32 < s.cur.toNat + s.cfg.wordUnit)) ∧
  alignUp 16 0 = 0 ∧ alignUp 16 1 = 16 ∧ alignUp 16 8 = 16 ∧ alignUp 16 16 = 16 ∧ alignUp 16 17 = 32

/-- The cursor never wraps: with every buffer within its capacity, a successful READ_BITS with A = 1 or HUFF moves CUR up by
exactly what it consumed, and a successful ALIGN sets it to the aligned value; no command moves it down
(40_bit_reader R146). -/
def Obligations.CursorNeverWraps : Prop :=
  ∀ s t : State, s.BuffersOk → t.status.lastOk = true →
    (∀ b n, exec (.readBits b true n) s = .next t →
      t.cur.toNat = s.cur.toNat + n.toNat ∧ t.cur.toNat ≤ 8 * bufLen (selBuf s b)) ∧
    (∀ b m, exec (.huff b m) s = .next t →
      t.cur.toNat = s.cur.toNat + t.huffLen.toNat ∧ t.cur.toNat ≤ 8 * bufLen (selBuf s b) + 15) ∧
    (exec .align s = .next t → t.cur.toNat = alignUp s.cfg.wordUnit s.cur.toNat)

/-! ## HUFF -/

/-- A table decode succeeds exactly with the shortest key that is a prefix of the bits from the start of the code, every
length compared with the whole prefix (41_huffman R172, R173, 30_encoding R118). -/
def Obligations.HuffmanShortestKey : Prop :=
  ∀ (c : Config) (buf : Buffer) (b p : Nat) (sym : Byte) (l : Nat), b ≤ c.brcMax →
    (b = 4 → p + c.scPlen ≤ 8 * bufLen buf ∧ bitsValue buf p c.scPlen ≠ 0) →
    (huffDecode c buf b p = .ok (sym, l) ↔
      (c.mode b).startLen ≤ l ∧ l ≤ c.huffMaxLen ∧ p + l ≤ 8 * bufLen buf ∧
      huffLookup (c.mode b) l (bitsValue buf p l) = some sym ∧
      ∀ k, (c.mode b).startLen ≤ k → k < l → huffLookup (c.mode b) k (bitsValue buf p k) = none)

/-- The order of the errors of a Huffman decode, each at the start of the code (41_huffman R174). -/
def Obligations.HuffmanErrorOrder : Prop :=
  ∀ (c : Config) (buf : Buffer) (b p : Nat),
    (c.brcMax < b → huffDecode c buf b p = .error ⟨.invalidBrc, p⟩) ∧
    (b ≤ c.brcMax → b = 4 → 8 * bufLen buf < p + c.scPlen →
      huffDecode c buf b p = .error ⟨.bufferTooShort, p⟩) ∧
    (b ≤ c.brcMax →
      (b = 4 → p + c.scPlen ≤ 8 * bufLen buf ∧ bitsValue buf p c.scPlen ≠ 0) →
      (∀ k, (c.mode b).startLen ≤ k → k ≤ c.huffMaxLen → p + k ≤ 8 * bufLen buf →
        huffLookup (c.mode b) k (bitsValue buf p k) = none) →
      huffDecode c buf b p =
        .error (if 8 * bufLen buf < p + c.huffMaxLen then ⟨.bufferTooShort, p⟩ else ⟨.huffmanDecodeError, p⟩))

/-- The shortcut of mode 4 (41_huffman R171): an all-zero SC_PLEN-bit prefix is symbol 0 with length SC_ADV whatever the
table holds; with another prefix, and in every other mode, the table search runs from the same cursor. -/
def Obligations.HuffmanShortcut : Prop :=
  ∀ (c : Config) (buf : Buffer) (p : Nat),
    (4 ≤ c.brcMax → p + c.scPlen ≤ 8 * bufLen buf →
      (bitsValue buf p c.scPlen = 0 → huffDecode c buf 4 p = .ok (0#8, c.scAdv)) ∧
      (bitsValue buf p c.scPlen ≠ 0 → huffDecode c buf 4 p = huffSearch c buf 4 p)) ∧
    (4 ≤ c.brcMax → 8 * bufLen buf < p + c.scPlen → huffDecode c buf 4 p = .error ⟨.bufferTooShort, p⟩) ∧
    (∀ b, b ≤ c.brcMax → b ≠ 4 → huffDecode c buf b p = huffSearch c buf b p)

/-- HUFF (41_huffman R175): its word, what a decoded symbol writes, and that an error writes nothing but its record. -/
def Obligations.HuffResult : Prop :=
  ∀ (s : State) (b : BufSel) (m : BitVec 3),
    encode (.huff b m) = 3#5 ++ bselCode b ++ m ++ 0#1 ++ 0#7 ++ 0#14 ∧
    (∀ sym l, huffDecode s.cfg (selBuf s b) m.toNat s.cur.toNat = .ok (sym, l) →
      exec (.huff b m) s = .next { s with
        huffSym := sym, huffLen := BitVec.ofNat 8 l, cur := BitVec.ofNat 32 (s.cur.toNat + l),
        status := { s.status with huffValid := true, lastOk := true, busy := false } }) ∧
    (∀ e, huffDecode s.cfg (selBuf s b) m.toNat s.cur.toNat = .error e →
      exec (.huff b m) s = .next (completeRaise s e) ∧ e.pos = s.cur.toNat ∧
        (e.kind = .invalidBrc ∨ e.kind = .bufferTooShort ∨ e.kind = .huffmanDecodeError)) ∧
    (s.cfg.brcMax < m.toNat →
      exec (.huff b m) s = .next (completeRaise s ⟨.invalidBrc, s.cur.toNat⟩))

/-! ## EXTRACT -/

/-- The extractor reads the rows in order from bit 0, each at the sum of the widths before it; it fails at the first row that
does not fit (42_header_extractor R201). -/
def Obligations.ExtractReadsRowsInOrder : Prop :=
  ∀ (c : Config) (buf : Buffer) (tab : List Field), (∀ f ∈ tab, 1 ≤ f.width ∧ f.width ≤ 64) →
    (tableBits tab ≤ 8 * bufLen buf → ∃ vals, extractFields c buf tab 0 = .ok vals ∧ vals.length = tab.length ∧
      ∀ (i : Nat) (f : Field), tab[i]? = some f →
        vals[i]? = some (BitVec.ofNat 64 (bitsValue buf (tableBits (tab.take i)) f.width))) ∧
    (8 * bufLen buf < tableBits tab → ∃ i, i < tab.length ∧
      tableBits (tab.take i) ≤ 8 * bufLen buf ∧ 8 * bufLen buf < tableBits (tab.take (i + 1)) ∧
      extractFields c buf tab 0 = .error ⟨.bufferTooShort, tableBits (tab.take i)⟩)

/-- EXTRACT (42_header_extractor R200): its word; with a buffer that holds the table's bits the whole map is written, its
valid bit set and the packet invalidated; with a shorter one BufferTooShort is recorded at the offset of the first row that
does not fit and nothing else changes; a term with a table select above 1, which no word decodes to, raises IllegalCommand
with its word, the model's choice (30_encoding R107; log 15). -/
def Obligations.ExtractResult : Prop :=
  ∀ (s : State) (b : BufSel) (m : BitVec 3),
    encode (.extract b m) = 4#5 ++ bselCode b ++ m ++ 0#1 ++ 0#7 ++ 0#14 ∧
    (m = 0#3 → tableBits s.cfg.phTable ≤ 8 * bufLen (selBuf s b) →
      ∃ vals, extractFields s.cfg (selBuf s b) s.cfg.phTable 0 = .ok vals ∧
        exec (.extract b m) s = .next { s with
          map0 := vals,
          status := { s.status with map0Valid := true, pktValid := false, cacheValid := false,
                                    lastOk := true, busy := false } }) ∧
    (m = 1#3 → tableBits s.cfg.shTable ≤ 8 * bufLen (selBuf s b) →
      ∃ vals, extractFields s.cfg (selBuf s b) s.cfg.shTable 0 = .ok vals ∧
        exec (.extract b m) s = .next { s with
          map1 := vals,
          status := { s.status with map1Valid := true, pktValid := false, cacheValid := false,
                                    lastOk := true, busy := false } }) ∧
    (m.toNat ≤ 1 → 8 * bufLen (selBuf s b) < tableBits (selTable s.cfg (m.toNat == 1)) →
      ∃ i, i < (selTable s.cfg (m.toNat == 1)).length ∧
        tableBits ((selTable s.cfg (m.toNat == 1)).take i) ≤ 8 * bufLen (selBuf s b) ∧
        8 * bufLen (selBuf s b) < tableBits ((selTable s.cfg (m.toNat == 1)).take (i + 1)) ∧
        exec (.extract b m) s =
          .next (completeRaise s ⟨.bufferTooShort, tableBits ((selTable s.cfg (m.toNat == 1)).take i)⟩)) ∧
    (1 < m.toNat → exec (.extract b m) s = .next (completeRaise s ⟨.illegalCommand, (encode (.extract b m)).toNat⟩))

/-! ## CONSTRUCT -/

/-- The classification of every BAQ mode and test mode (43_packet R224). -/
def Obligations.ClassifyByMode : Prop :=
  ∀ bm tm : Nat,
    (classify bm tm = some .a ↔ bm = 0 ∧ tm % 3 = 0) ∧
    (classify bm tm = some .b ↔ bm = 0 ∧ tm % 3 ≠ 0) ∧
    (classify bm tm = some .c ↔ bm = 3 ∨ bm = 4 ∨ bm = 5) ∧
    (classify bm tm = some .d ↔ bm = 12 ∨ bm = 13 ∨ bm = 14) ∧
    (classify bm tm = none ↔ bm ≠ 0 ∧ ¬ (3 ≤ bm ∧ bm ≤ 5) ∧ ¬ (12 ≤ bm ∧ bm ≤ 14))

/-- CONSTRUCT (43_packet R222, R221): its word, its three errors in their order, the length compared as a signed integer, and
the packet registers it writes; with a declared length below 0 it always fails. -/
def Obligations.ConstructResult : Prop :=
  encode .construct = 0x28000000#32 ∧
  ∀ s : State,
    (s.status.map0Valid = false ∨ s.status.map1Valid = false →
      exec .construct s = .next (completeRaise s ⟨.sequenceError, 0⟩)) ∧
    (s.status.map0Valid = true → s.status.map1Valid = true →
      (s.ud.len.toNat : Int) ≠
        (lookupField s.cfg.phTable s.map0 .packetDataLength).toNat + 1 - s.cfg.shSize →
      exec .construct s = .next (completeRaise s ⟨.lengthMismatch, s.ud.len.toNat⟩)) ∧
    (s.status.map0Valid = true → s.status.map1Valid = true →
      (lookupField s.cfg.phTable s.map0 .packetDataLength).toNat + 1 < s.cfg.shSize →
      exec .construct s = .next (completeRaise s ⟨.lengthMismatch, s.ud.len.toNat⟩)) ∧
    (s.status.map0Valid = true → s.status.map1Valid = true →
      (s.ud.len.toNat : Int) =
        (lookupField s.cfg.phTable s.map0 .packetDataLength).toNat + 1 - s.cfg.shSize →
      ∀ bm tm nq, bm = (lookupField s.cfg.shTable s.map1 .baqMode).toNat →
        tm = (lookupField s.cfg.shTable s.map1 .testMode).toNat →
        nq = (lookupField s.cfg.shTable s.map1 .numberOfQuads).toNat →
        (classify bm tm = none → exec .construct s = .next (completeRaise s ⟨.invalidBaqMode, bm⟩)) ∧
        (∀ f, classify bm tm = some f →
          exec .construct s = .next { s with
            baqMode := BitVec.ofNat 8 bm, testMode := BitVec.ofNat 8 tm, fmt := f,
            nq := BitVec.ofNat 32 nq, nb := BitVec.ofNat 32 (ceilDiv nq s.cfg.blockQ),
            status := { s.status with pktValid := true, cacheValid := false, lastOk := true, busy := false } }))

/-! ## GET_SAMPLES -/

/-- Without a constructed packet GET_SAMPLES raises SequenceError(0); a format C packet raises UnsupportedFormat(0) with
nothing read, written or released (43_packet R226, R228). That BRC and THIDX are kept by these failures is the model's
reading (log 11). -/
def Obligations.SamplesRejected : Prop :=
  encode .getSamples = 0x30000000#32 ∧
  ∀ s : State,
    (s.status.pktValid = false → exec .getSamples s = .next (completeRaise s ⟨.sequenceError, 0⟩)) ∧
    (s.status.pktValid = true → s.status.cacheValid = false → s.fmt = .c →
      exec .getSamples s = .next (completeRaise s ⟨.unsupportedFormat, 0⟩))

/-- A GET_SAMPLES with a valid cache, whose packet is then valid too (10_state R52), succeeds and writes the completion bits
only, whatever BUSY is (43_packet R227). -/
def Obligations.SamplesMemoised : Prop :=
  ∀ s : State, s.status.pktValid = true → s.status.cacheValid = true →
    exec .getSamples s = .next { s with status := { s.status with lastOk := true, busy := false } }

/-- A Type A or B packet whose user data is long enough is decoded to the samples its layout gives: OUT holds them, UD is
released and the cache valid, and nothing else but the completion bits changes (45_type_ab_path R300 to R303,
44_type_d_path R270, 43_packet R226, R229, R230). The released bytes are a free value (log 10). -/
def Obligations.TypeABSamples : Prop :=
  ∀ s : State, s.status.pktValid = true → s.status.cacheValid = false → s.fmt = .a ∨ s.fmt = .b →
    abBitsNeeded s.cfg s.nq.toNat ≤ 8 * bufLen s.ud →
    exec .getSamples s = .next { s with
      out := writeFront (abSamples s.cfg s.ud s.nq.toNat) s.out,
      ud := releasedBuffer s.free, free := s.free + 1,
      status := { s.status with udReleased := true, cacheValid := true, lastOk := true, busy := false } }

/-- A Type A or B decode succeeds exactly when the user data holds the bits needed, which are 3·AlignUp(10·NQ) + 10·NQ for
9-bit magnitudes, whatever follows (45_type_ab_path R304). Otherwise it raises BufferTooShort where the first code that is
not whole is cut: at its magnitude if only that is missing, else at its sign (60_exceptions R327). That BRC and THIDX are
kept by this failure is the model's reading (log 11). -/
def Obligations.TypeABLengthNeeded : Prop :=
  (∀ (c : Config) (nq : Nat), c.abMagBits = 9 →
    abBitsNeeded c nq = 3 * alignUp c.wordUnit (10 * nq) + 10 * nq) ∧
  ∀ s : State, s.status.pktValid = true → s.status.cacheValid = false → s.fmt = .a ∨ s.fmt = .b →
    ∃ t, exec .getSamples s = .next t ∧
      (t.status.lastOk = true ↔ abBitsNeeded s.cfg s.nq.toNat ≤ 8 * bufLen s.ud) ∧
      (t.status.lastOk = false → ∃ k q, AbFirstMissing s.cfg s.ud s.nq.toNat k q ∧
        t = completeRaise s ⟨.bufferTooShort, abFailOffset s.cfg s.ud s.nq.toNat k q⟩)

/-- The sign and the integers: sign 0 keeps a value and sign 1 is its neg (00_scope R15); ofInt is exact up to 511 (R11); 511
with sign 1 is -511 and 0 with sign 1 is neg of ofInt 0, which differs from ofInt 0 exactly with NEG_ZERO_DISTINCT
(45_type_ab_path R300, 44_type_d_path R273). That distinct integers are distinct S-values and that neg of an exact integer is
the exact negative is the model's deduction (log 3). -/
def Obligations.SignedIntegersExact : Prop :=
  ∀ c : Config,
    (∀ x, applySign c false x = x ∧ applySign c true x = svalNeg c x) ∧
    (∀ v w : Int, v.natAbs ≤ 511 → w.natAbs ≤ 511 → svalOfInt v = svalOfInt w → v = w) ∧
    (∀ v : Int, v ≠ 0 → v.natAbs ≤ 511 → applySign c true (svalOfInt v) = svalOfInt (-v)) ∧
    applySign c true (svalOfInt 511) = svalOfInt (-511) ∧
    applySign c true (svalOfInt 0) = svalNeg c (svalOfInt 0) ∧
    (svalNeg c (svalOfInt 0) ≠ svalOfInt 0 ↔ c.negZeroDistinct = true)

/-- A Type D packet whose bit-stream decodes: OUT, BRC and THIDX are written, UD is released and the cache valid, and nothing
else but the completion bits changes (43_packet R226, R229, R230). -/
def Obligations.TypeDResult : Prop :=
  ∀ (s : State) (samples : List (SVal × SVal)) (brc : List (BitVec 3)) (thidx : List (BitVec 8)),
    s.status.pktValid = true → s.status.cacheValid = false → s.fmt = .d →
    decodeD s.cfg s.ud s.nq.toNat s.nb.toNat = .ok (samples, brc, thidx) →
    exec .getSamples s = .next { s with
      out := writeFront samples s.out, brc := writeFront brc s.brc, thidx := writeFront thidx s.thidx,
      ud := releasedBuffer s.free, free := s.free + 1,
      status := { s.status with udReleased := true, cacheValid := true, lastOk := true, busy := false } }

/-- What a Type D decode gives: 2·NQ samples, one BRC of at most BRC_MAX and one threshold index per block
(43_packet R229, 44_type_d_path R262, R263, R265). -/
def Obligations.TypeDSideInformation : Prop :=
  ∀ (c : Config) (ud : Buffer) (nq : Nat) (samples : List (SVal × SVal)) (brc : List (BitVec 3))
    (thidx : List (BitVec 8)),
    decodeD c ud nq (ceilDiv nq c.blockQ) = .ok (samples, brc, thidx) →
    samples.length = 2 * nq ∧ brc.length = ceilDiv nq c.blockQ ∧ thidx.length = ceilDiv nq c.blockQ ∧
      ∀ x ∈ brc, x.toNat ≤ c.brcMax

/-- The bit layout of Type D user data (30_encoding R117, 44_type_d_path R260, R262 to R267, R270): a decode of a packet's blocks
gives samples and side information exactly when there is a layout of IE, IO, QE, QO, each from a word boundary on, in which
each block of IE starts with its BRC and each block of QE with its threshold index, each sample is a sign bit and the Huffman
code under the BRC of its block right behind it, and the samples are the reconstructed codes, interleaved. -/
def Obligations.TypeDLayout : Prop :=
  ∀ (c : Config) (ud : Buffer) (nq : Nat) (samples : List (SVal × SVal)) (brc : List (BitVec 3))
    (thidx : List (BitVec 8)),
    decodeD c ud nq (ceilDiv nq c.blockQ) = .ok (samples, brc, thidx) ↔
      brc.length = ceilDiv nq c.blockQ ∧ thidx.length = ceilDiv nq c.blockQ ∧
      ∃ l : Layout, l.Starts c nq ∧
        (∀ k q, q < nq → l.QuadRead c ud brc thidx k q ∧ l.Valued c ud brc thidx k q) ∧
        samples = l.samples nq

/-- The error of a Type D GET_SAMPLES and its position (60_exceptions R327, 44_type_d_path R260, R271): it is recorded, and it
is InvalidMagnitudeCode(0) of a bit-stream that decodes, or there is a quad of a component at which reading fails with it,
every quad before that one in decode order having been read as laid out. BRC and THIDX are then free values (log 9). -/
def Obligations.TypeDErrorPosition : Prop :=
  ∀ (s : State) (e : Raise), s.status.pktValid = true → s.status.cacheValid = false → s.fmt = .d →
    s.nb.toNat = ceilDiv s.nq.toNat s.cfg.blockQ →
    decodeD s.cfg s.ud s.nq.toNat s.nb.toNat = .error e →
    exec .getSamples s = .next (completeRaise (scrambleSide s) e) ∧
    ((e = ⟨.invalidMagnitudeCode, 0⟩ ∧ ∃ r, codesD s.cfg s.ud s.nq.toNat s.nb.toNat = .ok r) ∨
     ∃ (l : Layout) (brc : List (BitVec 3)) (thidx : List (BitVec 8)) (k : Component) (q : Nat),
       q < s.nq.toNat ∧ l.Starts s.cfg s.nq.toNat ∧ l.QuadFails s.cfg s.ud brc thidx k q e ∧
       ∀ k' q', q' < s.nq.toNat → componentNumber k' < componentNumber k ∨ (k' = k ∧ q' < q) →
         l.QuadRead s.cfg s.ud brc thidx k' q')

/-- A bit-stream error anywhere in a Type D packet is reported before any InvalidMagnitudeCode, which has position 0
(44_type_d_path R271). -/
def Obligations.BitStreamErrorsFirst : Prop :=
  ∀ (c : Config) (ud : Buffer) (nq nb : Nat) (e : Raise),
    (codesD c ud nq nb = .error e →
      decodeD c ud nq nb = .error e ∧
        (e.kind = .bufferTooShort ∨ e.kind = .invalidBrc ∨ e.kind = .huffmanDecodeError)) ∧
    ((∃ r, codesD c ud nq nb = .ok r) → decodeD c ud nq nb = .error e → e = ⟨.invalidMagnitudeCode, 0⟩)

/-- The blocks of a packet: all of BLOCK_Q samples but the last, which holds 1 to BLOCK_Q; together NQ samples; none for NQ = 0;
and BLOCK_Q is 128 after reset (44_type_d_path R261). -/
def Obligations.BlocksCoverPacket : Prop :=
  State.reset.cfg.blockQ = 128 ∧
  ∀ (c : Config) (nq : Nat),
    (nq = 0 → ceilDiv nq c.blockQ = 0) ∧
    (∀ b, b + 1 < ceilDiv nq c.blockQ → blockLen c b nq (ceilDiv nq c.blockQ) = c.blockQ) ∧
    (1 ≤ nq → ∃ b, b + 1 = ceilDiv nq c.blockQ ∧
      blockLen c b nq (ceilDiv nq c.blockQ) = nq - c.blockQ * b ∧
      1 ≤ blockLen c b nq (ceilDiv nq c.blockQ) ∧ blockLen c b nq (ceilDiv nq c.blockQ) ≤ c.blockQ ∧
      (c.blockQ ∣ nq → blockLen c b nq (ceilDiv nq c.blockQ) = c.blockQ)) ∧
    ((List.range (ceilDiv nq c.blockQ)).map fun b => blockLen c b nq (ceilDiv nq c.blockQ)).sum = nq

/-- The reconstruction of a sample by its branches (44_type_d_path R267, R268, R269). -/
def Obligations.ReconstructionBranches : Prop :=
  ∀ (c : Config) (b t m : Nat) (sg : Bool),
    (t ≤ (c.mode b).thidxMax → (m : Int) < (c.mode b).mCode →
      reconD c b t ⟨sg, m⟩ = .ok (applySign c sg (svalOfInt m))) ∧
    (t ≤ (c.mode b).thidxMax → (m : Int) = (c.mode b).mCode →
      reconD c b t ⟨sg, m⟩ = .ok (applySign c sg ((c.mode b).simple.getD t (.int 0)))) ∧
    (t ≤ (c.mode b).thidxMax → (c.mode b).mCode < (m : Int) →
      reconD c b t ⟨sg, m⟩ = .error ⟨.invalidMagnitudeCode, 0⟩) ∧
    ((c.mode b).thidxMax < t → m < (c.mode b).normalized.length →
      reconD c b t ⟨sg, m⟩ =
        .ok (applySign c sg (Config.mul ((c.mode b).normalized.getD m (.int 0)) (c.scale.getD t (.int 0))))) ∧
    ((c.mode b).thidxMax < t → (c.mode b).normalized.length ≤ m →
      reconD c b t ⟨sg, m⟩ = .error ⟨.invalidMagnitudeCode, 0⟩)

/-- The samples are interleaved in ascending quad order, (IE, QE) then (IO, QO), 2·nq in all (44_type_d_path R270). -/
def Obligations.InterleaveOrder : Prop :=
  ∀ ie io qe qo : List SVal, io.length = ie.length → qe.length = ie.length → qo.length = ie.length →
    (interleave ie io qe qo).length = 2 * ie.length ∧
    ∀ q, q < ie.length →
      (interleave ie io qe qo)[2 * q]? = some (ie.getD q (.int 0), qe.getD q (.int 0)) ∧
      (interleave ie io qe qo)[2 * q + 1]? = some (io.getD q (.int 0), qo.getD q (.int 0))

/-- A failed GET_SAMPLES caches nothing, writes no sample and keeps the user data; but for BRC and THIDX, which become
unspecified, only the error record changes, whatever BUSY is (43_packet R231; log 11 on which failures). The premise is the
one invariant of 10_state R52 that it needs. -/
def Obligations.FailedSamplesKeepState : Prop :=
  ∀ s t : State, (s.status.cacheValid = true → s.status.pktValid = true) →
    exec .getSamples s = .next t → t.status.lastOk = false →
    t.status.cacheValid = false ∧ t.out = s.out ∧ t.ud = s.ud ∧ t.status.udReleased = s.status.udReleased ∧
    t = { s with brc := t.brc, thidx := t.thidx, free := t.free, errPos := t.errPos,
                 status := { s.status with busy := false, lastOk := false, err := true,
                                           multiErr := t.status.multiErr, errCode := t.status.errCode } }

/-- Two decodes of the same bytes under the same packet registers give the same outcome and the same samples
(43_packet R232). -/
def Obligations.SamplesDeterministic : Prop :=
  ∀ s s' t t' : State, s.PacketOk → s'.cfg = s.cfg → s'.fmt = s.fmt → s'.nq = s.nq → s'.nb = s.nb →
    SameBytes s.ud s'.ud →
    s.status.pktValid = true → s.status.cacheValid = false →
    s'.status.pktValid = true → s'.status.cacheValid = false →
    exec .getSamples s = .next t → exec .getSamples s' = .next t' →
    t'.status.lastOk = t.status.lastOk ∧
      (t.status.lastOk = true → ∀ k, k < 2 * s.nq.toNat → outAt t'.out k = outAt t.out k)

/-- After a first successful GET_SAMPLES the user data is gone: every legal READ_BITS of UD and every HUFF of UD under a legal
mode raises BufferTooShort at CUR (70_reset_and_hazards R376, 10_state R45). -/
def Obligations.ReleasedDataUnreadable : Prop :=
  ∀ s t : State, s.status.pktValid = true → s.status.cacheValid = false →
    exec .getSamples s = .next t → t.status.lastOk = true →
    t.ud.len = 0#32 ∧ t.status.udReleased = true ∧
    (∀ a n, 1 ≤ n.toNat → n.toNat ≤ 64 →
      exec (.readBits .ud a n) t = .next (completeRaise t ⟨.bufferTooShort, t.cur.toNat⟩)) ∧
    (∀ m, m.toNat ≤ t.cfg.brcMax →
      exec (.huff .ud m) t = .next (completeRaise t ⟨.bufferTooShort, t.cur.toNat⟩))

/-! ## How commands end -/

/-- Completion (60_exceptions R324): a success sets LAST_OK; a first error is recorded with its code and its position modulo
2^32; a later one sets MULTI_ERR and keeps the first. Every command ends so, and as it would without an earlier error. The
codes are those of 60_exceptions R320. -/
def Obligations.CompletionRecord : Prop :=
  (∀ (i : Instr) (s : State), ∃ s' r, exec i s = .next (complete s' r) ∧
    s'.status = s.status ∧ s'.errPos = s.errPos) ∧
  (∀ (i : Instr) (s : State) (e : Bool), ∃ t t', exec i s = .next t ∧
    exec i { s with status := { s.status with err := e } } = .next t' ∧ t'.status.lastOk = t.status.lastOk) ∧
  (∀ s t : State, complete s (.ok t) = { t with status := { t.status with lastOk := true, busy := false } }) ∧
  (∀ (s : State) (e : Raise),
    (s.status.err = false →
      complete s (.error e) = { s with
        errPos := BitVec.ofNat 32 (e.pos % 2 ^ 32),
        status := { s.status with lastOk := false, err := true, errCode := errCode e.kind, busy := false } }) ∧
    (s.status.err = true →
      complete s (.error e) = { s with
        status := { s.status with lastOk := false, multiErr := true, busy := false } })) ∧
  [ErrKind.invalidBitWidth, .bufferTooShort, .huffmanDecodeError, .lengthMismatch, .invalidBaqMode, .invalidBrc,
    .invalidMagnitudeCode, .invalidCode, .unsupportedFormat, .illegalCommand, .sequenceError, .cursorOverflow].map
    errCode = [1#4, 2#4, 3#4, 4#4, 5#4, 6#4, 7#4, 8#4, 9#4, 10#4, 11#4, 12#4]

/-- A command that raises writes nothing but the error record, with the one exception of BRC and THIDX after a failed Type D
GET_SAMPLES (60_exceptions R325). That the other failures of GET_SAMPLES keep BRC and THIDX is the model's reading of R325
beside 43_packet R231 (log 11). -/
def Obligations.FailedCommandWritesNothing : Prop :=
  ∀ (i : Instr) (s t : State), exec i s = .next t → t.status.lastOk = false →
    t = { s with brc := t.brc, thidx := t.thidx, free := t.free, errPos := t.errPos,
                 status := { s.status with busy := false, lastOk := false, err := true,
                                           multiErr := t.status.multiErr, errCode := t.status.errCode } } ∧
    (¬ (i = .getSamples ∧ decodesTypeD s = true) → t.brc = s.brc ∧ t.thidx = s.thidx ∧ t.free = s.free)

/-- No command reads ERR, MULTI_ERR, LAST_OK, ERRCODE or ERRPOS: whatever they hold, it ends alike and leaves everything but
them alike (10_state R53, 60_exceptions R324). -/
def Obligations.ErrorRecordBlocksNothing : Prop :=
  ∀ (i : Instr) (s t : State) (e m l : Bool) (k : BitVec 4) (p : Word), exec i s = .next t →
    ∃ t', exec i { s with errPos := p, status := { s.status with err := e, multiErr := m, lastOk := l, errCode := k } } =
        .next t' ∧
      t' = { t with errPos := t'.errPos,
                    status := { t.status with err := t'.status.err, multiErr := t'.status.multiErr,
                                              errCode := t'.status.errCode } }

/-- The frame of the commands: what each leaves unchanged. CUR changes only by READ_BITS, ALIGN and HUFF; RES only by READ_BITS;
HUFF only by HUFF; the maps only by EXTRACT; the packet registers only by CONSTRUCT; OUT, BRC, THIDX and UD only by
GET_SAMPLES; no command stores a byte, and every byte of GB, PH and SH reads as before (10_state R33 to R49,
20_memory R84). -/
def Obligations.CommandFrame : Prop :=
  ∀ (i : Instr) (s t : State), exec i s = .next t →
    t.cfg = s.cfg ∧ t.pending = s.pending ∧ t.reply = s.reply ∧
    t.gb = s.gb ∧ t.ph = s.ph ∧ t.sh = s.sh ∧
    (∀ b a, b ≠ .ud → readByte (selBuf t b).mem a = readByte (selBuf s b).mem a) ∧
    ((∀ b a n, i ≠ .readBits b a n) → t.res = s.res ∧ t.status.resValid = s.status.resValid) ∧
    ((∀ b m, i ≠ .huff b m) →
      t.huffSym = s.huffSym ∧ t.huffLen = s.huffLen ∧ t.status.huffValid = s.status.huffValid) ∧
    ((∀ b n, i ≠ .readBits b true n) → i ≠ .align → (∀ b m, i ≠ .huff b m) → t.cur = s.cur) ∧
    ((∀ b m, i ≠ .extract b m) → t.map0 = s.map0 ∧ t.map1 = s.map1 ∧
      t.status.map0Valid = s.status.map0Valid ∧ t.status.map1Valid = s.status.map1Valid) ∧
    (i ≠ .construct → t.baqMode = s.baqMode ∧ t.testMode = s.testMode ∧ t.fmt = s.fmt ∧ t.nq = s.nq ∧ t.nb = s.nb) ∧
    (i ≠ .construct → (∀ b m, i ≠ .extract b m) → t.status.pktValid = s.status.pktValid) ∧
    (i ≠ .getSamples →
      t.out = s.out ∧ t.brc = s.brc ∧ t.thidx = s.thidx ∧ t.ud = s.ud ∧ t.free = s.free ∧
      t.status.udReleased = s.status.udReleased ∧ ∀ a, readByte t.ud.mem a = readByte s.ud.mem a) ∧
    ((∀ b m, i ≠ .extract b m) → i ≠ .construct → i ≠ .getSamples → t.status.cacheValid = s.status.cacheValid)

/-! ## Rules about every step -/

/-- The invariants of 10_state R52 hold after reset, and so do the others of this file. -/
def Obligations.InvariantsAtReset : Prop :=
  State.reset.Consistent ∧ State.reset.BuffersOk ∧ State.reset.PacketOk ∧ State.reset.CacheOk

/-- The invariants of 10_state R52 hold between any two transactions: they hold after reset, and every step keeps them. -/
def Obligations.StepKeepsConsistent : Prop :=
  State.reset.Consistent ∧ ∀ s t : State, s.Consistent → step s = .next t → t.Consistent

/-- Every step keeps every buffer within its capacity and its bytes in canonical form (10_state R44). -/
def Obligations.StepKeepsBuffers : Prop :=
  ∀ s t : State, s.BuffersOk → step s = .next t → t.BuffersOk

/-- Every step keeps the packet registers those of a packet: NQ within NQ_MAX, NB its blocks, FMT the classification of the
mode fields, and the maps' entries within their rows' widths (43_packet R223, 10_state R46, R49). The maps' clause holds
whatever the valid bits are: a RESET keeps it because the model makes the maps 0 there, which 10_state R55 leaves unspecified
(log 7, the model's choice). -/
def Obligations.StepKeepsPacket : Prop :=
  ∀ s t : State, s.PacketOk → step s = .next t → t.PacketOk

/-- Every step keeps a valid cache whole: 2·NQ samples, and in format D the side information of every block
(43_packet R229, 10_state R47, R48). -/
def Obligations.StepKeepsCache : Prop :=
  ∀ s t : State, s.PacketOk → s.CacheOk → step s = .next t → t.CacheOk

/-- The invalidation events (10_state R51): what LOAD, a successful EXTRACT, a successful CONSTRUCT and RESET do to PKT_VALID
and CACHE_VALID, and that nothing else clears them. -/
def Obligations.InvalidationEvents : Prop :=
  ∀ (s t : State) (tr : Transaction) (rest : List Transaction), s.pending = tr :: rest → step s = .next t →
    (∀ b bytes, tr = .load b bytes →
      (b ≠ .gb → t.status.pktValid = false ∧ t.status.cacheValid = false) ∧
      (b = .ud → t.status.udReleased = false) ∧
      (b = .gb → t.status.pktValid = s.status.pktValid ∧ t.status.cacheValid = s.status.cacheValid)) ∧
    (∀ v b m, tr = .wr 0#6 v → decode v = .ok (.extract b m) → t.status.lastOk = true →
      t.status.pktValid = false ∧ t.status.cacheValid = false) ∧
    (∀ v, tr = .wr 0#6 v → decode v = .ok .construct → t.status.lastOk = true →
      t.status.pktValid = true ∧ t.status.cacheValid = false) ∧
    (tr = .reset → t.status.pktValid = false ∧ t.status.cacheValid = false) ∧
    (s.status.pktValid = true → t.status.pktValid = false →
      tr = .reset ∨ (∃ b bytes, tr = .load b bytes ∧ b ≠ .gb) ∨
      (∃ v b m, tr = .wr 0#6 v ∧ decode v = .ok (.extract b m) ∧ t.status.lastOk = true)) ∧
    (s.status.cacheValid = true → t.status.cacheValid = false →
      tr = .reset ∨ (∃ b bytes, tr = .load b bytes ∧ b ≠ .gb) ∨
      (∃ v b m, tr = .wr 0#6 v ∧ decode v = .ok (.extract b m) ∧ t.status.lastOk = true) ∨
      (∃ v, tr = .wr 0#6 v ∧ decode v = .ok .construct ∧ t.status.lastOk = true))

/-- OUT is written only by a first successful GET_SAMPLES, which validates the cache, and by RESET; while the cache is valid
nothing but RESET writes it (43_packet R233, 20_memory R90). -/
def Obligations.SamplesSingleAssignment : Prop :=
  ∀ s t : State, step s = .next t → t.out ≠ s.out →
    s.pending.head? = some .reset ∨
    (s.status.cacheValid = false ∧ t.status.cacheValid = true ∧ t.status.lastOk = true ∧
      ∃ v rest, s.pending = .wr 0#6 v :: rest ∧ decode v = .ok .getSamples)

/-- The error record is sticky: while ERR = 1 only RESET and a write of 1 to STATUS bit 1 change ERR, ERRCODE or ERRPOS, and
nothing else clears MULTI_ERR (10_state R36, 60_exceptions R330, 70_reset_and_hazards R378). -/
def Obligations.ErrorRecordSticky : Prop :=
  ∀ s t : State, s.status.err = true → step s = .next t →
    s.pending.head? ≠ some .reset →
    (∀ v : Word, v.getLsbD 1 = true → s.pending.head? ≠ some (.wr 1#6 v)) →
    t.status.err = true ∧ t.status.errCode = s.status.errCode ∧ t.errPos = s.errPos ∧
      (s.status.multiErr = true → t.status.multiErr = true)

/-- An error code in STATUS is one the core produces, never 8 or 13 to 15 (60_exceptions R320, R322). -/
def Obligations.StepKeepsProducedCodes : Prop :=
  ∀ s t : State, (s.status.err = true → producedCode s.status.errCode) → step s = .next t →
    t.status.err = true → producedCode t.status.errCode

/-! ## The host's transactions -/

/-- RESET and power-on leave every scalar register, every STATUS field and every length 0 (10_state R55); RESET keeps the
configuration (70_reset_and_hazards R360), and the two are alike (70_reset_and_hazards R361). The whole next state is given: the
queue and the counter kept (log 5) and the contents the spec leaves unspecified (log 7) are the model's choices, and that a
RESET while BUSY = 1 acts at once is its reading (log 17). -/
def Obligations.ResetClearsCore : Prop :=
  (∀ (s : State) (rest : List Transaction), s.pending = .reset :: rest →
    step s = .next { State.cleared s.cfg with pending := rest, free := s.free }) ∧
  State.reset = State.cleared Config.initial ∧
  (∀ c : Config,
    statusWord (State.cleared c).status = 0#32 ∧ (State.cleared c).cfg = c ∧
    (∀ r : BitVec 6, readRegister (State.cleared c) r = 0#32))

/-- The commands right after reset, under every configuration (70_reset_and_hazards R363): a read of a legal width, a HUFF of a
legal mode and an EXTRACT raise BufferTooShort(0), a HUFF of another mode InvalidBrc(0), ALIGN leaves CUR at 0, CONSTRUCT
and GET_SAMPLES raise SequenceError(0). The contents the spec leaves unspecified are the model's there (log 7), and that a
failed GET_SAMPLES keeps BRC and THIDX is its reading (log 11). -/
def Obligations.CommandsAfterReset : Prop :=
  ∀ (c : Config) (b : BufSel),
    (∀ a n, 1 ≤ n.toNat → n.toNat ≤ 64 →
      exec (.readBits b a n) (State.cleared c) = .next (completeRaise (State.cleared c) ⟨.bufferTooShort, 0⟩)) ∧
    (∀ m, m.toNat ≤ c.brcMax →
      exec (.huff b m) (State.cleared c) = .next (completeRaise (State.cleared c) ⟨.bufferTooShort, 0⟩)) ∧
    (∀ m, c.brcMax < m.toNat →
      exec (.huff b m) (State.cleared c) = .next (completeRaise (State.cleared c) ⟨.invalidBrc, 0⟩)) ∧
    (∀ m, m.toNat ≤ 1 →
      exec (.extract b m) (State.cleared c) = .next (completeRaise (State.cleared c) ⟨.bufferTooShort, 0⟩)) ∧
    exec .align (State.cleared c) = .next (completeOk (State.cleared c)) ∧
    exec .construct (State.cleared c) = .next (completeRaise (State.cleared c) ⟨.sequenceError, 0⟩) ∧
    exec .getSamples (State.cleared c) = .next (completeRaise (State.cleared c) ⟨.sequenceError, 0⟩)

/-- LOAD replaces one buffer's content and length and nothing else but the bits of 10_state R51; every loaded byte is read
back at its offset, and the maps stay as they were (10_state R44, 40_bit_reader R142, 70_reset_and_hazards R375). -/
def Obligations.LoadReplacesBuffer : Prop :=
  ∀ (s : State) (b : BufSel) (bytes : List Byte) (rest : List Transaction),
    s.status.busy = false → bytes.length ≤ capacity s.cfg b → s.pending = .load b bytes :: rest →
    ∃ t, step s = .next t ∧
      bufLen (selBuf t b) = bytes.length ∧
      (∀ (j : Nat) (x : Byte), bytes[j]? = some x → readBits t.cfg (selBuf t b) (8 * j) 8 = .ok x.toNat) ∧
      (∀ b', b' ≠ b → selBuf t b' = selBuf s b') ∧
      t = { s with pending := rest, reply := none, gb := t.gb, ph := t.ph, sh := t.sh, ud := t.ud,
                   status := { s.status with pktValid := t.status.pktValid, cacheValid := t.status.cacheValid,
                                             udReleased := t.status.udReleased } }

/-- The host's register writes (10_state R33, R36, R43): CUR takes the value, a 1 in bit 1 of STATUS clears the error record
and the other bits are ignored, every other register but CMD ignores the write. -/
def Obligations.HostRegisterWrites : Prop :=
  ∀ (s : State) (r : BitVec 6) (v : Word) (rest : List Transaction),
    s.status.busy = false → s.pending = .wr r v :: rest → r ≠ 0#6 →
    (r = 2#6 → step s = .next { s with pending := rest, reply := none, cur := v }) ∧
    (r = 1#6 → v.getLsbD 1 = true →
      step s = .next { s with pending := rest, reply := none, errPos := 0#32,
                              status := { s.status with err := false, multiErr := false, errCode := 0#4 } }) ∧
    (r = 1#6 → v.getLsbD 1 = false → step s = .next { s with pending := rest, reply := none }) ∧
    (r ≠ 1#6 → r ≠ 2#6 → step s = .next { s with pending := rest, reply := none })

/-- The host's register reads (10_state R35, R36, R38, R42, R43): RD gives the register's value and changes nothing; every
field stands at its bits, and CMD, the reserved numbers and the reserved bits read 0. That RD answers while BUSY = 1 too is the
model's reading (log 16). -/
def Obligations.HostRegisterReads : Prop :=
  ∀ (s : State) (r : BitVec 6) (rest : List Transaction), s.pending = .rd r :: rest →
    step s = .next { s with pending := rest, reply := some (.register (readRegister s r)) } ∧
    (r = 0#6 ∨ 14 ≤ r.toNat → readRegister s r = 0#32) ∧
    (r = 1#6 →
      (readRegister s r).getLsbD 0 = s.status.busy ∧ (readRegister s r).getLsbD 1 = s.status.err ∧
      (readRegister s r).getLsbD 2 = s.status.multiErr ∧ (readRegister s r).getLsbD 3 = s.status.lastOk ∧
      (readRegister s r).getLsbD 4 = s.status.resValid ∧ (readRegister s r).getLsbD 5 = s.status.huffValid ∧
      (readRegister s r).getLsbD 6 = s.status.map0Valid ∧ (readRegister s r).getLsbD 7 = s.status.map1Valid ∧
      (readRegister s r).getLsbD 8 = s.status.pktValid ∧ (readRegister s r).getLsbD 9 = s.status.cacheValid ∧
      (readRegister s r).getLsbD 10 = s.status.udReleased ∧ (readRegister s r).extractLsb' 11 5 = 0#5 ∧
      (readRegister s r).extractLsb' 16 4 = s.status.errCode ∧ (readRegister s r).extractLsb' 20 12 = 0#12) ∧
    (r = 2#6 → readRegister s r = s.cur) ∧ (r = 3#6 → readRegister s r = s.errPos) ∧
    (r = 4#6 → readRegister s r = s.res.extractLsb' 0 32) ∧ (r = 5#6 → readRegister s r = s.res.extractLsb' 32 32) ∧
    (r = 6#6 → (readRegister s r).extractLsb' 0 8 = s.huffSym ∧ (readRegister s r).extractLsb' 8 8 = s.huffLen ∧
      (readRegister s r).extractLsb' 16 16 = 0#16) ∧
    (r = 7#6 → (readRegister s r).extractLsb' 0 8 = s.baqMode ∧ (readRegister s r).extractLsb' 8 8 = s.testMode ∧
      (readRegister s r).extractLsb' 16 2 = formatCode s.fmt ∧ (readRegister s r).extractLsb' 18 14 = 0#14) ∧
    (r = 8#6 → readRegister s r = s.nq) ∧ (r = 9#6 → readRegister s r = s.nb) ∧
    (r = 10#6 → readRegister s r = s.gb.len) ∧ (r = 11#6 → readRegister s r = s.ph.len) ∧
    (r = 12#6 → readRegister s r = s.sh.len) ∧ (r = 13#6 → readRegister s r = s.ud.len)

/-- The host's array reads (60_exceptions R345): under their conditions RDMAP, RDOUT and RDSIDE give the entry and change
nothing else. -/
def Obligations.HostArrayReads : Prop :=
  ∀ (s : State) (rest : List Transaction), s.status.busy = false →
    (∀ i, s.pending = .rdMap false i :: rest → s.status.map0Valid = true → i < s.cfg.phTable.length →
      step s = .next { s with pending := rest, reply := some (.field (s.map0.getD i 0#64)) }) ∧
    (∀ i, s.pending = .rdMap true i :: rest → s.status.map1Valid = true → i < s.cfg.shTable.length →
      step s = .next { s with pending := rest, reply := some (.field (s.map1.getD i 0#64)) }) ∧
    (∀ k, s.pending = .rdOut k :: rest → s.status.cacheValid = true → k < 2 * s.nq.toNat →
      step s = .next { s with pending := rest,
                              reply := some (.sample (Config.enc (outAt s.out k).1) (Config.enc (outAt s.out k).2)) }) ∧
    (∀ b, s.pending = .rdSide b :: rest → s.status.cacheValid = true → s.fmt = .d → b < s.nb.toNat →
      step s = .next { s with pending := rest, reply := some (.side (brcAt s.brc b) (thidxAt s.thidx b)) })
end

