-- ==== Sys2Proof/Laws/Config.lean ====
section
/-! SUPPORT. What a well-formed configuration gives: one lemma per check that proofs use. -/

namespace Sys2Proof

theorem Config.check_holds (c : Config) {e : ConfigError} {p : Bool} (h : (e, p) ∈ c.checks) : p = true := by
  have := List.all_eq_true.mp c.ok _ h
  exact this

theorem Config.maxWidth_eq (c : Config) : c.maxWidth = 64 := by
  have := c.check_holds (e := .maxWidth) (by simp [ConfigData.checks]; rfl)
  simpa using this

theorem Config.huffMaxLen_range (c : Config) : 1 ≤ c.huffMaxLen ∧ c.huffMaxLen ≤ 15 := by
  have := c.check_holds (e := .huffMaxLen) (by simp [ConfigData.checks]; rfl)
  simpa using this

theorem Config.wordUnit_pos (c : Config) : 1 ≤ c.wordUnit := by
  have := c.check_holds (e := .wordUnit) (by simp [ConfigData.checks]; rfl)
  simpa using this

theorem Config.blockQ_pos (c : Config) : 1 ≤ c.blockQ := by
  have := c.check_holds (e := .blockQ) (by simp [ConfigData.checks]; rfl)
  simpa using this

/-- A legal BRC fits the 3-bit entries of BRC. -/
theorem Config.brc_fits (c : Config) {v : Nat} (hb : v < 2 ^ c.brcBits) (hm : v ≤ c.brcMax) : v < 8 := by
  have h := c.check_holds (e := .brcMax) (by simp [ConfigData.checks]; rfl)
  simp only [Bool.or_eq_true, decide_eq_true_eq] at h
  rcases h with h | h
  · exact lt_of_lt_of_le hb (Nat.pow_le_pow_right (by omega) h)
  · omega

theorem Config.fieldBits_range (c : Config) :
    ((1 ≤ c.brcBits ∧ c.brcBits ≤ 64) ∧ 1 ≤ c.thidxBits ∧ c.thidxBits ≤ 8) ∧
      c.abSignBits = 1 ∧ 1 ≤ c.abMagBits ∧ c.abMagBits ≤ 64 := by
  have := c.check_holds (e := .fieldBits) (by simp [ConfigData.checks]; rfl)
  simp at this
  tauto

theorem Config.modes_length (c : Config) : c.modes.length = c.brcMax + 1 := by
  have := c.check_holds (e := .modeCount) (by simp [ConfigData.checks]; rfl)
  simpa using this

theorem Config.startLen_range (c : Config) {m : ModeTables} (hm : m ∈ c.modes) :
    1 ≤ m.startLen ∧ m.startLen ≤ c.huffMaxLen := by
  have := c.check_holds (e := .startLen) (by simp [ConfigData.checks]; rfl)
  simp at this
  exact this m hm

theorem Config.shortcut_range (c : Config) :
    (1 ≤ c.scPlen ∧ c.scPlen ≤ c.huffMaxLen) ∧ 1 ≤ c.scAdv ∧ c.scAdv ≤ 15 := by
  have := c.check_holds (e := .shortcut) (by simp [ConfigData.checks]; rfl)
  simpa using this

theorem Config.field_width_range (c : Config) {f : Field} (hf : f ∈ c.phTable ∨ f ∈ c.shTable) :
    1 ≤ f.width ∧ f.width ≤ c.maxWidth := by
  have := c.check_holds (e := .fieldWidths) (by simp [ConfigData.checks]; rfl)
  simp at this
  exact hf.elim (this.1 f) (this.2 f)

theorem Config.table_bits (c : Config) :
    tableBits c.phTable = 8 * c.phBytes ∧ tableBits c.shTable = 8 * c.shSize := by
  have := c.check_holds (e := .tableSum) (by simp [ConfigData.checks]; rfl)
  simpa using this

theorem Config.mode_field_width (c : Config) :
    fieldWidth c.shTable .baqMode ≤ 8 ∧ fieldWidth c.shTable .testMode ≤ 8 := by
  have := c.check_holds (e := .modeFieldWidth) (by simp [ConfigData.checks]; rfl)
  simpa using this

theorem Config.quads_width (c : Config) : fieldWidth c.shTable .numberOfQuads ≤ 32 := by
  have := c.check_holds (e := .quadsWidth) (by simp [ConfigData.checks]; rfl)
  simpa using this

theorem Config.capacity_bounds (c : Config) :
    (8 * c.capGb + 15 < 2 ^ 32 ∧ 8 * c.capPh + 15 < 2 ^ 32 ∧ 8 * c.capSh + 15 < 2 ^ 32 ∧ 8 * c.capUd + 15 < 2 ^ 32) ∧
      c.phBytes ≤ c.capPh ∧ c.shSize ≤ c.capSh ∧ 65474 ≤ c.capUd := by
  have := c.check_holds (e := .capacity) (by simp [ConfigData.checks]; rfl)
  simp only [capFits, Bool.and_eq_true, decide_eq_true_eq] at this
  tauto

/-- The tables of a mode up to BRC_MAX are those of the list, so their checks hold. -/
theorem Config.mode_mem (c : Config) {b : Nat} (hb : b ≤ c.brcMax) : c.mode b ∈ c.modes := by
  have hl : b < c.modes.length := by rw [c.modes_length]; omega
  simp [ConfigData.mode, List.getD, List.getElem?_eq_getElem hl]

theorem Config.mode_startLen (c : Config) {b : Nat} (hb : b ≤ c.brcMax) :
    1 ≤ (c.mode b).startLen ∧ (c.mode b).startLen ≤ c.huffMaxLen :=
  c.startLen_range (c.mode_mem hb)

end Sys2Proof
end

