-- ==== Sys2Proof/Laws/BitReader.lean ====
section
/-! SUPPORT. Everything the bit reader and AlignUp can do (40_bit_reader R140, R143). -/

namespace Sys2Proof.Machine

/-- ReadBits answers a value exactly when the width and the span are right, and then the value is that of the bits. -/
theorem readBits_ok_iff {c : Config} {b : Buffer} {s n v : Nat} :
    readBits c b s n = .ok v ↔ (1 ≤ n ∧ n ≤ 64) ∧ s + n ≤ 8 * bufLen b ∧ v = bitsValue b s n := by
  simp only [readBits, c.maxWidth_eq]
  split
  · simp; omega
  · split
    · simp; omega
    · simp only [Except.ok.injEq]
      constructor
      · intro h; exact ⟨by omega, by omega, h.symm⟩
      · intro h; exact h.2.2.symm

/-- ReadBits raises InvalidBitWidth for a wrong width and BufferTooShort for a span past the end, both at its start. -/
theorem readBits_error_iff {c : Config} {b : Buffer} {s n : Nat} {e : Raise} :
    readBits c b s n = .error e ↔
      (¬ (1 ≤ n ∧ n ≤ 64) ∧ e = ⟨.invalidBitWidth, s⟩) ∨
      ((1 ≤ n ∧ n ≤ 64) ∧ 8 * bufLen b < s + n ∧ e = ⟨.bufferTooShort, s⟩) := by
  simp only [readBits, c.maxWidth_eq]
  split
  · next h => constructor
              · intro g; exact .inl ⟨by omega, by simpa using g.symm⟩
              · rintro (⟨-, rfl⟩ | ⟨g, -⟩)
                · rfl
                · omega
  · next h =>
    split
    · constructor
      · intro g; exact .inr ⟨by omega, by omega, by simpa using g.symm⟩
      · rintro (⟨g, -⟩ | ⟨-, -, rfl⟩)
        · omega
        · rfl
    · constructor
      · intro g; cases g
      · rintro (⟨g, -⟩ | ⟨-, g, -⟩) <;> omega

/-- A legal width inside the buffer is read. -/
theorem readBits_ok {c : Config} {b : Buffer} {s n : Nat} (h1 : 1 ≤ n) (h2 : n ≤ 64) (h3 : s + n ≤ 8 * bufLen b) :
    readBits c b s n = .ok (bitsValue b s n) :=
  readBits_ok_iff.mpr ⟨⟨h1, h2⟩, h3, rfl⟩

/-- A legal width past the end raises BufferTooShort. -/
theorem readBits_short {c : Config} {b : Buffer} {s n : Nat} (h1 : 1 ≤ n) (h2 : n ≤ 64) (h3 : 8 * bufLen b < s + n) :
    readBits c b s n = .error ⟨.bufferTooShort, s⟩ :=
  readBits_error_iff.mpr (.inr ⟨⟨h1, h2⟩, h3, rfl⟩)

/-- A field of `n` bits is below 2^n. -/
theorem bitsValue_lt (b : Buffer) (s n : Nat) : bitsValue b s n < 2 ^ n := by
  induction n with
  | zero => simp [bitsValue]
  | succ n ih =>
    have := Bool.toNat_lt (bufBit b (s + n))
    simp only [bitsValue, pow_succ]
    omega

theorem readBits_lt {c : Config} {b : Buffer} {s n v : Nat} (h : readBits c b s n = .ok v) : v < 2 ^ n := by
  rw [(readBits_ok_iff.mp h).2.2]
  exact bitsValue_lt b s n

/-- AlignUp lands at or above its argument and less than one unit above it. -/
theorem alignUp_bounds {w : Nat} (hw : 1 ≤ w) (c : Nat) : c ≤ alignUp w c ∧ alignUp w c < c + w := by
  unfold alignUp
  have h1 := Nat.div_add_mod (c + w - 1) w
  have h2 := Nat.mod_lt (c + w - 1) hw
  rw [Nat.mul_comm] at h1
  omega

/-- A field of `m + n` bits is its first `m` bits followed by its last `n` bits. -/
theorem bitsValue_add (b : Buffer) (s m n : Nat) :
    bitsValue b s (m + n) = bitsValue b s m * 2 ^ n + bitsValue b (s + m) n := by
  induction n with
  | zero => simp [bitsValue]
  | succ n ih =>
    rw [show m + (n + 1) = m + n + 1 by omega]
    simp only [bitsValue, ih, pow_succ, show s + (m + n) = s + m + n by omega]
    ring

/-- The eight bits of a byte are the byte. -/
theorem bitsValue_byte (b : Buffer) (j : Nat) : bitsValue b (8 * j) 8 = (readByte b.mem j).toNat := by
  have hd : ∀ k, k < 8 → (8 * j + k) / 8 = j ∧ (8 * j + k) % 8 = k := by intro k hk; omega
  have h : ∀ k, k < 8 → bufBit b (8 * j + k) = (readByte b.mem j).getLsbD (7 - k) := by
    intro k hk
    simp only [bufBit, hd k hk]
  simp only [bitsValue, h 0 (by omega), h 1 (by omega), h 2 (by omega), h 3 (by omega), h 4 (by omega),
    h 5 (by omega), h 6 (by omega), h 7 (by omega)]
  generalize readByte b.mem j = x
  revert x
  decide +kernel

/-- AlignUp moves past whole units. -/
theorem alignUp_add {w : Nat} (hw : 1 ≤ w) (k x : Nat) : alignUp w (w * k + x) = w * k + alignUp w x := by
  unfold alignUp
  have h : w * k + x + w - 1 = x + w - 1 + w * k := by omega
  rw [h, Nat.add_mul_div_left _ _ (by omega), Nat.add_mul]
  ring

/-- No quotient of 0. -/
theorem ceilDiv_zero {q : Nat} (hq : 1 ≤ q) : ceilDiv 0 q = 0 := Nat.div_eq_of_lt (by omega)

/-- The rounded-up quotient of a positive number. -/
theorem ceilDiv_pos {q n : Nat} (hq : 1 ≤ q) (hn : 1 ≤ n) :
    ∃ b, ceilDiv n q = b + 1 ∧ q * b < n ∧ n ≤ q * b + q := by
  refine ⟨(n - 1) / q, ?_, ?_, ?_⟩
  · unfold ceilDiv
    rw [show n + q - 1 = n - 1 + q by omega, Nat.add_div_right _ (by omega)]
  · have := Nat.mul_div_le (n - 1) q
    omega
  · have := Nat.lt_mul_div_succ (n - 1) (show 0 < q by omega)
    rw [Nat.mul_add] at this
    omega

end Sys2Proof.Machine
end

