-- ==== Sys2Proof/Laws/Bits.lean ====
section
/-! SUPPORT. Command words as numbers: joining and cutting out fields. -/

namespace Sys2Proof

/-- Joined bit vectors as a number. -/
theorem toNat_join {m n : Nat} (x : BitVec m) (y : BitVec n) : (x ++ y).toNat = x.toNat * 2 ^ n + y.toNat := by
  rw [BitVec.toNat_append, ← Nat.shiftLeft_add_eq_or_of_lt y.isLt, Nat.shiftLeft_eq]

/-- A field cut out of a bit vector as a number. -/
theorem toNat_field {w : Nat} (x : BitVec w) (lo len : Nat) :
    (x.extractLsb' lo len).toNat = x.toNat / 2 ^ lo % 2 ^ len := by
  simp [BitVec.extractLsb'_toNat, Nat.shiftRight_eq_div_pow]

/-- The word of the fields as a number. -/
theorem packFields_toNat (op : BitVec 5) (b : BitVec 2) (m : BitVec 3) (a : BitVec 1) (n : BitVec 7) :
    (packFields op b m a n).toNat =
      op.toNat * 2 ^ 27 + b.toNat * 2 ^ 25 + m.toNat * 2 ^ 22 + a.toNat * 2 ^ 21 + n.toNat * 2 ^ 14 := by
  unfold packFields
  simp only [toNat_join, BitVec.toNat_ofNat]
  omega

/-! ## The fields of a packed word are the fields it was packed from -/

section
variable (op : BitVec 5) (b : BitVec 2) (m : BitVec 3) (a : BitVec 1) (n : BitVec 7)

@[simp] theorem fieldOp_pack : fieldOp (packFields op b m a n) = op := by
  apply BitVec.eq_of_toNat_eq
  have := op.isLt; have := b.isLt; have := m.isLt; have := a.isLt; have := n.isLt
  simp only [fieldOp, toNat_field, packFields_toNat]
  omega

@[simp] theorem fieldBsel_pack : fieldBsel (packFields op b m a n) = b := by
  apply BitVec.eq_of_toNat_eq
  have := op.isLt; have := b.isLt; have := m.isLt; have := a.isLt; have := n.isLt
  simp only [fieldBsel, toNat_field, packFields_toNat]
  omega

@[simp] theorem fieldM_pack : fieldM (packFields op b m a n) = m := by
  apply BitVec.eq_of_toNat_eq
  have := op.isLt; have := b.isLt; have := m.isLt; have := a.isLt; have := n.isLt
  simp only [fieldM, toNat_field, packFields_toNat]
  omega

@[simp] theorem fieldA_pack : fieldA (packFields op b m a n) = a := by
  apply BitVec.eq_of_toNat_eq
  have := op.isLt; have := b.isLt; have := m.isLt; have := a.isLt; have := n.isLt
  simp only [fieldA, toNat_field, packFields_toNat]
  omega

@[simp] theorem fieldN_pack : fieldN (packFields op b m a n) = n := by
  apply BitVec.eq_of_toNat_eq
  have := op.isLt; have := b.isLt; have := m.isLt; have := a.isLt; have := n.isLt
  simp only [fieldN, toNat_field, packFields_toNat]
  omega

@[simp] theorem fieldReserved_pack : fieldReserved (packFields op b m a n) = 0#14 := by
  apply BitVec.eq_of_toNat_eq
  simp only [fieldReserved, toNat_field, packFields_toNat, BitVec.toNat_ofNat]
  omega

/-- Bits 26:14 are 0 exactly when the four fields there are. -/
theorem fieldOperands_eq_zero_iff (v : Word) :
    fieldOperands v = 0#13 ↔ fieldBsel v = 0#2 ∧ fieldM v = 0#3 ∧ fieldA v = 0#1 ∧ fieldN v = 0#7 := by
  simp only [← BitVec.toNat_inj, fieldOperands, fieldBsel, fieldM, fieldA, fieldN, toNat_field,
    BitVec.toNat_ofNat, Nat.zero_mod]
  omega

end

/-- A word with zero reserved bits is packed from its own fields. -/
theorem packFields_fields {v : Word} (h : fieldReserved v = 0#14) :
    packFields (fieldOp v) (fieldBsel v) (fieldM v) (fieldA v) (fieldN v) = v := by
  apply BitVec.eq_of_toNat_eq
  have h' := congrArg BitVec.toNat h
  have := v.isLt
  simp only [fieldOp, fieldBsel, fieldM, fieldA, fieldN, fieldReserved, toNat_field, packFields_toNat,
    BitVec.toNat_ofNat, Nat.zero_mod] at *
  omega

@[simp] theorem bselOf_bselCode (b : BufSel) : bselOf (bselCode b) = b := by cases b <;> decide

@[simp] theorem bselCode_bselOf (b : BitVec 2) : bselCode (bselOf b) = b := by revert b; decide

@[simp] theorem ofBool_beq_one (a : BitVec 1) : BitVec.ofBool (a == 1#1) = a := by revert a; decide

@[simp] theorem beq_one_ofBool (a : Bool) : (BitVec.ofBool a == 1#1) = a := by cases a <;> decide

end Sys2Proof
end

