-- ==== Sys2Proof/Laws/State.lean ====
section
/-! SUPPORT. What every update of the state leaves in every field, by reflexivity. A proof that meets an update reads the
field off here and never unfolds the record. -/

namespace Sys2Proof.Machine

/-! ### setCur -/

@[simp] theorem setCur_status (s : State) (v : Nat) : (setCur s v).status = s.status := rfl
@[simp] theorem setCur_cur (s : State) (v : Nat) : (setCur s v).cur = BitVec.ofNat 32 v := rfl
@[simp] theorem setCur_errPos (s : State) (v : Nat) : (setCur s v).errPos = s.errPos := rfl
@[simp] theorem setCur_res (s : State) (v : Nat) : (setCur s v).res = s.res := rfl
@[simp] theorem setCur_huffSym (s : State) (v : Nat) : (setCur s v).huffSym = s.huffSym := rfl
@[simp] theorem setCur_huffLen (s : State) (v : Nat) : (setCur s v).huffLen = s.huffLen := rfl
@[simp] theorem setCur_baqMode (s : State) (v : Nat) : (setCur s v).baqMode = s.baqMode := rfl
@[simp] theorem setCur_testMode (s : State) (v : Nat) : (setCur s v).testMode = s.testMode := rfl
@[simp] theorem setCur_fmt (s : State) (v : Nat) : (setCur s v).fmt = s.fmt := rfl
@[simp] theorem setCur_nq (s : State) (v : Nat) : (setCur s v).nq = s.nq := rfl
@[simp] theorem setCur_nb (s : State) (v : Nat) : (setCur s v).nb = s.nb := rfl
@[simp] theorem setCur_gb (s : State) (v : Nat) : (setCur s v).gb = s.gb := rfl
@[simp] theorem setCur_ph (s : State) (v : Nat) : (setCur s v).ph = s.ph := rfl
@[simp] theorem setCur_sh (s : State) (v : Nat) : (setCur s v).sh = s.sh := rfl
@[simp] theorem setCur_ud (s : State) (v : Nat) : (setCur s v).ud = s.ud := rfl
@[simp] theorem setCur_map0 (s : State) (v : Nat) : (setCur s v).map0 = s.map0 := rfl
@[simp] theorem setCur_map1 (s : State) (v : Nat) : (setCur s v).map1 = s.map1 := rfl
@[simp] theorem setCur_brc (s : State) (v : Nat) : (setCur s v).brc = s.brc := rfl
@[simp] theorem setCur_thidx (s : State) (v : Nat) : (setCur s v).thidx = s.thidx := rfl
@[simp] theorem setCur_out (s : State) (v : Nat) : (setCur s v).out = s.out := rfl
@[simp] theorem setCur_cfg (s : State) (v : Nat) : (setCur s v).cfg = s.cfg := rfl
@[simp] theorem setCur_pending (s : State) (v : Nat) : (setCur s v).pending = s.pending := rfl
@[simp] theorem setCur_reply (s : State) (v : Nat) : (setCur s v).reply = s.reply := rfl
@[simp] theorem setCur_free (s : State) (v : Nat) : (setCur s v).free = s.free := rfl

/-! ### setRes -/

@[simp] theorem setRes_status (s : State) (v : Nat) : (setRes s v).status = { s.status with resValid := true } := rfl
@[simp] theorem setRes_cur (s : State) (v : Nat) : (setRes s v).cur = s.cur := rfl
@[simp] theorem setRes_errPos (s : State) (v : Nat) : (setRes s v).errPos = s.errPos := rfl
@[simp] theorem setRes_res (s : State) (v : Nat) : (setRes s v).res = BitVec.ofNat 64 v := rfl
@[simp] theorem setRes_huffSym (s : State) (v : Nat) : (setRes s v).huffSym = s.huffSym := rfl
@[simp] theorem setRes_huffLen (s : State) (v : Nat) : (setRes s v).huffLen = s.huffLen := rfl
@[simp] theorem setRes_baqMode (s : State) (v : Nat) : (setRes s v).baqMode = s.baqMode := rfl
@[simp] theorem setRes_testMode (s : State) (v : Nat) : (setRes s v).testMode = s.testMode := rfl
@[simp] theorem setRes_fmt (s : State) (v : Nat) : (setRes s v).fmt = s.fmt := rfl
@[simp] theorem setRes_nq (s : State) (v : Nat) : (setRes s v).nq = s.nq := rfl
@[simp] theorem setRes_nb (s : State) (v : Nat) : (setRes s v).nb = s.nb := rfl
@[simp] theorem setRes_gb (s : State) (v : Nat) : (setRes s v).gb = s.gb := rfl
@[simp] theorem setRes_ph (s : State) (v : Nat) : (setRes s v).ph = s.ph := rfl
@[simp] theorem setRes_sh (s : State) (v : Nat) : (setRes s v).sh = s.sh := rfl
@[simp] theorem setRes_ud (s : State) (v : Nat) : (setRes s v).ud = s.ud := rfl
@[simp] theorem setRes_map0 (s : State) (v : Nat) : (setRes s v).map0 = s.map0 := rfl
@[simp] theorem setRes_map1 (s : State) (v : Nat) : (setRes s v).map1 = s.map1 := rfl
@[simp] theorem setRes_brc (s : State) (v : Nat) : (setRes s v).brc = s.brc := rfl
@[simp] theorem setRes_thidx (s : State) (v : Nat) : (setRes s v).thidx = s.thidx := rfl
@[simp] theorem setRes_out (s : State) (v : Nat) : (setRes s v).out = s.out := rfl
@[simp] theorem setRes_cfg (s : State) (v : Nat) : (setRes s v).cfg = s.cfg := rfl
@[simp] theorem setRes_pending (s : State) (v : Nat) : (setRes s v).pending = s.pending := rfl
@[simp] theorem setRes_reply (s : State) (v : Nat) : (setRes s v).reply = s.reply := rfl
@[simp] theorem setRes_free (s : State) (v : Nat) : (setRes s v).free = s.free := rfl

/-! ### setHuff -/

@[simp] theorem setHuff_status (s : State) (y : Byte) (n : Nat) :
    (setHuff s y n).status = { s.status with huffValid := true } := rfl
@[simp] theorem setHuff_cur (s : State) (y : Byte) (n : Nat) : (setHuff s y n).cur = s.cur := rfl
@[simp] theorem setHuff_errPos (s : State) (y : Byte) (n : Nat) : (setHuff s y n).errPos = s.errPos := rfl
@[simp] theorem setHuff_res (s : State) (y : Byte) (n : Nat) : (setHuff s y n).res = s.res := rfl
@[simp] theorem setHuff_huffSym (s : State) (y : Byte) (n : Nat) : (setHuff s y n).huffSym = y := rfl
@[simp] theorem setHuff_huffLen (s : State) (y : Byte) (n : Nat) : (setHuff s y n).huffLen = BitVec.ofNat 8 n := rfl
@[simp] theorem setHuff_baqMode (s : State) (y : Byte) (n : Nat) : (setHuff s y n).baqMode = s.baqMode := rfl
@[simp] theorem setHuff_testMode (s : State) (y : Byte) (n : Nat) : (setHuff s y n).testMode = s.testMode := rfl
@[simp] theorem setHuff_fmt (s : State) (y : Byte) (n : Nat) : (setHuff s y n).fmt = s.fmt := rfl
@[simp] theorem setHuff_nq (s : State) (y : Byte) (n : Nat) : (setHuff s y n).nq = s.nq := rfl
@[simp] theorem setHuff_nb (s : State) (y : Byte) (n : Nat) : (setHuff s y n).nb = s.nb := rfl
@[simp] theorem setHuff_gb (s : State) (y : Byte) (n : Nat) : (setHuff s y n).gb = s.gb := rfl
@[simp] theorem setHuff_ph (s : State) (y : Byte) (n : Nat) : (setHuff s y n).ph = s.ph := rfl
@[simp] theorem setHuff_sh (s : State) (y : Byte) (n : Nat) : (setHuff s y n).sh = s.sh := rfl
@[simp] theorem setHuff_ud (s : State) (y : Byte) (n : Nat) : (setHuff s y n).ud = s.ud := rfl
@[simp] theorem setHuff_map0 (s : State) (y : Byte) (n : Nat) : (setHuff s y n).map0 = s.map0 := rfl
@[simp] theorem setHuff_map1 (s : State) (y : Byte) (n : Nat) : (setHuff s y n).map1 = s.map1 := rfl
@[simp] theorem setHuff_brc (s : State) (y : Byte) (n : Nat) : (setHuff s y n).brc = s.brc := rfl
@[simp] theorem setHuff_thidx (s : State) (y : Byte) (n : Nat) : (setHuff s y n).thidx = s.thidx := rfl
@[simp] theorem setHuff_out (s : State) (y : Byte) (n : Nat) : (setHuff s y n).out = s.out := rfl
@[simp] theorem setHuff_cfg (s : State) (y : Byte) (n : Nat) : (setHuff s y n).cfg = s.cfg := rfl
@[simp] theorem setHuff_pending (s : State) (y : Byte) (n : Nat) : (setHuff s y n).pending = s.pending := rfl
@[simp] theorem setHuff_reply (s : State) (y : Byte) (n : Nat) : (setHuff s y n).reply = s.reply := rfl
@[simp] theorem setHuff_free (s : State) (y : Byte) (n : Nat) : (setHuff s y n).free = s.free := rfl

/-! ### setMap -/

@[simp] theorem setMap_status (s : State) (t : Bool) (vs : List (BitVec 64)) :
    (setMap s t vs).status = statusExtracted s.status t := rfl
@[simp] theorem setMap_cur (s : State) (t : Bool) (vs : List (BitVec 64)) : (setMap s t vs).cur = s.cur := rfl
@[simp] theorem setMap_errPos (s : State) (t : Bool) (vs : List (BitVec 64)) :
    (setMap s t vs).errPos = s.errPos := rfl
@[simp] theorem setMap_res (s : State) (t : Bool) (vs : List (BitVec 64)) : (setMap s t vs).res = s.res := rfl
@[simp] theorem setMap_huffSym (s : State) (t : Bool) (vs : List (BitVec 64)) :
    (setMap s t vs).huffSym = s.huffSym := rfl
@[simp] theorem setMap_huffLen (s : State) (t : Bool) (vs : List (BitVec 64)) :
    (setMap s t vs).huffLen = s.huffLen := rfl
@[simp] theorem setMap_baqMode (s : State) (t : Bool) (vs : List (BitVec 64)) :
    (setMap s t vs).baqMode = s.baqMode := rfl
@[simp] theorem setMap_testMode (s : State) (t : Bool) (vs : List (BitVec 64)) :
    (setMap s t vs).testMode = s.testMode := rfl
@[simp] theorem setMap_fmt (s : State) (t : Bool) (vs : List (BitVec 64)) : (setMap s t vs).fmt = s.fmt := rfl
@[simp] theorem setMap_nq (s : State) (t : Bool) (vs : List (BitVec 64)) : (setMap s t vs).nq = s.nq := rfl
@[simp] theorem setMap_nb (s : State) (t : Bool) (vs : List (BitVec 64)) : (setMap s t vs).nb = s.nb := rfl
@[simp] theorem setMap_gb (s : State) (t : Bool) (vs : List (BitVec 64)) : (setMap s t vs).gb = s.gb := rfl
@[simp] theorem setMap_ph (s : State) (t : Bool) (vs : List (BitVec 64)) : (setMap s t vs).ph = s.ph := rfl
@[simp] theorem setMap_sh (s : State) (t : Bool) (vs : List (BitVec 64)) : (setMap s t vs).sh = s.sh := rfl
@[simp] theorem setMap_ud (s : State) (t : Bool) (vs : List (BitVec 64)) : (setMap s t vs).ud = s.ud := rfl
@[simp] theorem setMap_map0 (s : State) (t : Bool) (vs : List (BitVec 64)) :
    (setMap s t vs).map0 = if t then s.map0 else vs := rfl
@[simp] theorem setMap_map1 (s : State) (t : Bool) (vs : List (BitVec 64)) :
    (setMap s t vs).map1 = if t then vs else s.map1 := rfl
@[simp] theorem setMap_brc (s : State) (t : Bool) (vs : List (BitVec 64)) : (setMap s t vs).brc = s.brc := rfl
@[simp] theorem setMap_thidx (s : State) (t : Bool) (vs : List (BitVec 64)) : (setMap s t vs).thidx = s.thidx := rfl
@[simp] theorem setMap_out (s : State) (t : Bool) (vs : List (BitVec 64)) : (setMap s t vs).out = s.out := rfl
@[simp] theorem setMap_cfg (s : State) (t : Bool) (vs : List (BitVec 64)) : (setMap s t vs).cfg = s.cfg := rfl
@[simp] theorem setMap_pending (s : State) (t : Bool) (vs : List (BitVec 64)) :
    (setMap s t vs).pending = s.pending := rfl
@[simp] theorem setMap_reply (s : State) (t : Bool) (vs : List (BitVec 64)) : (setMap s t vs).reply = s.reply := rfl
@[simp] theorem setMap_free (s : State) (t : Bool) (vs : List (BitVec 64)) : (setMap s t vs).free = s.free := rfl

/-! ### setPacket -/

@[simp] theorem setPacket_status (s : State) (bm tm : Nat) (f : Format) (q : Nat) :
    (setPacket s bm tm f q).status = statusConstructed s.status := rfl
@[simp] theorem setPacket_cur (s : State) (bm tm : Nat) (f : Format) (q : Nat) :
    (setPacket s bm tm f q).cur = s.cur := rfl
@[simp] theorem setPacket_errPos (s : State) (bm tm : Nat) (f : Format) (q : Nat) :
    (setPacket s bm tm f q).errPos = s.errPos := rfl
@[simp] theorem setPacket_res (s : State) (bm tm : Nat) (f : Format) (q : Nat) :
    (setPacket s bm tm f q).res = s.res := rfl
@[simp] theorem setPacket_huffSym (s : State) (bm tm : Nat) (f : Format) (q : Nat) :
    (setPacket s bm tm f q).huffSym = s.huffSym := rfl
@[simp] theorem setPacket_huffLen (s : State) (bm tm : Nat) (f : Format) (q : Nat) :
    (setPacket s bm tm f q).huffLen = s.huffLen := rfl
@[simp] theorem setPacket_baqMode (s : State) (bm tm : Nat) (f : Format) (q : Nat) :
    (setPacket s bm tm f q).baqMode = BitVec.ofNat 8 bm := rfl
@[simp] theorem setPacket_testMode (s : State) (bm tm : Nat) (f : Format) (q : Nat) :
    (setPacket s bm tm f q).testMode = BitVec.ofNat 8 tm := rfl
@[simp] theorem setPacket_fmt (s : State) (bm tm : Nat) (f : Format) (q : Nat) :
    (setPacket s bm tm f q).fmt = f := rfl
@[simp] theorem setPacket_nq (s : State) (bm tm : Nat) (f : Format) (q : Nat) :
    (setPacket s bm tm f q).nq = BitVec.ofNat 32 q := rfl
@[simp] theorem setPacket_nb (s : State) (bm tm : Nat) (f : Format) (q : Nat) :
    (setPacket s bm tm f q).nb = BitVec.ofNat 32 (ceilDiv q s.cfg.blockQ) := rfl
@[simp] theorem setPacket_gb (s : State) (bm tm : Nat) (f : Format) (q : Nat) :
    (setPacket s bm tm f q).gb = s.gb := rfl
@[simp] theorem setPacket_ph (s : State) (bm tm : Nat) (f : Format) (q : Nat) :
    (setPacket s bm tm f q).ph = s.ph := rfl
@[simp] theorem setPacket_sh (s : State) (bm tm : Nat) (f : Format) (q : Nat) :
    (setPacket s bm tm f q).sh = s.sh := rfl
@[simp] theorem setPacket_ud (s : State) (bm tm : Nat) (f : Format) (q : Nat) :
    (setPacket s bm tm f q).ud = s.ud := rfl
@[simp] theorem setPacket_map0 (s : State) (bm tm : Nat) (f : Format) (q : Nat) :
    (setPacket s bm tm f q).map0 = s.map0 := rfl
@[simp] theorem setPacket_map1 (s : State) (bm tm : Nat) (f : Format) (q : Nat) :
    (setPacket s bm tm f q).map1 = s.map1 := rfl
@[simp] theorem setPacket_brc (s : State) (bm tm : Nat) (f : Format) (q : Nat) :
    (setPacket s bm tm f q).brc = s.brc := rfl
@[simp] theorem setPacket_thidx (s : State) (bm tm : Nat) (f : Format) (q : Nat) :
    (setPacket s bm tm f q).thidx = s.thidx := rfl
@[simp] theorem setPacket_out (s : State) (bm tm : Nat) (f : Format) (q : Nat) :
    (setPacket s bm tm f q).out = s.out := rfl
@[simp] theorem setPacket_cfg (s : State) (bm tm : Nat) (f : Format) (q : Nat) :
    (setPacket s bm tm f q).cfg = s.cfg := rfl
@[simp] theorem setPacket_pending (s : State) (bm tm : Nat) (f : Format) (q : Nat) :
    (setPacket s bm tm f q).pending = s.pending := rfl
@[simp] theorem setPacket_reply (s : State) (bm tm : Nat) (f : Format) (q : Nat) :
    (setPacket s bm tm f q).reply = s.reply := rfl
@[simp] theorem setPacket_free (s : State) (bm tm : Nat) (f : Format) (q : Nat) :
    (setPacket s bm tm f q).free = s.free := rfl

/-! ### setSide -/

@[simp] theorem setSide_status (s : State) (bs : List (BitVec 3)) (ts : List (BitVec 8)) :
    (setSide s bs ts).status = s.status := rfl
@[simp] theorem setSide_cur (s : State) (bs : List (BitVec 3)) (ts : List (BitVec 8)) :
    (setSide s bs ts).cur = s.cur := rfl
@[simp] theorem setSide_errPos (s : State) (bs : List (BitVec 3)) (ts : List (BitVec 8)) :
    (setSide s bs ts).errPos = s.errPos := rfl
@[simp] theorem setSide_res (s : State) (bs : List (BitVec 3)) (ts : List (BitVec 8)) :
    (setSide s bs ts).res = s.res := rfl
@[simp] theorem setSide_huffSym (s : State) (bs : List (BitVec 3)) (ts : List (BitVec 8)) :
    (setSide s bs ts).huffSym = s.huffSym := rfl
@[simp] theorem setSide_huffLen (s : State) (bs : List (BitVec 3)) (ts : List (BitVec 8)) :
    (setSide s bs ts).huffLen = s.huffLen := rfl
@[simp] theorem setSide_baqMode (s : State) (bs : List (BitVec 3)) (ts : List (BitVec 8)) :
    (setSide s bs ts).baqMode = s.baqMode := rfl
@[simp] theorem setSide_testMode (s : State) (bs : List (BitVec 3)) (ts : List (BitVec 8)) :
    (setSide s bs ts).testMode = s.testMode := rfl
@[simp] theorem setSide_fmt (s : State) (bs : List (BitVec 3)) (ts : List (BitVec 8)) :
    (setSide s bs ts).fmt = s.fmt := rfl
@[simp] theorem setSide_nq (s : State) (bs : List (BitVec 3)) (ts : List (BitVec 8)) :
    (setSide s bs ts).nq = s.nq := rfl
@[simp] theorem setSide_nb (s : State) (bs : List (BitVec 3)) (ts : List (BitVec 8)) :
    (setSide s bs ts).nb = s.nb := rfl
@[simp] theorem setSide_gb (s : State) (bs : List (BitVec 3)) (ts : List (BitVec 8)) :
    (setSide s bs ts).gb = s.gb := rfl
@[simp] theorem setSide_ph (s : State) (bs : List (BitVec 3)) (ts : List (BitVec 8)) :
    (setSide s bs ts).ph = s.ph := rfl
@[simp] theorem setSide_sh (s : State) (bs : List (BitVec 3)) (ts : List (BitVec 8)) :
    (setSide s bs ts).sh = s.sh := rfl
@[simp] theorem setSide_ud (s : State) (bs : List (BitVec 3)) (ts : List (BitVec 8)) :
    (setSide s bs ts).ud = s.ud := rfl
@[simp] theorem setSide_map0 (s : State) (bs : List (BitVec 3)) (ts : List (BitVec 8)) :
    (setSide s bs ts).map0 = s.map0 := rfl
@[simp] theorem setSide_map1 (s : State) (bs : List (BitVec 3)) (ts : List (BitVec 8)) :
    (setSide s bs ts).map1 = s.map1 := rfl
@[simp] theorem setSide_brc (s : State) (bs : List (BitVec 3)) (ts : List (BitVec 8)) :
    (setSide s bs ts).brc = writeFront bs s.brc := rfl
@[simp] theorem setSide_thidx (s : State) (bs : List (BitVec 3)) (ts : List (BitVec 8)) :
    (setSide s bs ts).thidx = writeFront ts s.thidx := rfl
@[simp] theorem setSide_out (s : State) (bs : List (BitVec 3)) (ts : List (BitVec 8)) :
    (setSide s bs ts).out = s.out := rfl
@[simp] theorem setSide_cfg (s : State) (bs : List (BitVec 3)) (ts : List (BitVec 8)) :
    (setSide s bs ts).cfg = s.cfg := rfl
@[simp] theorem setSide_pending (s : State) (bs : List (BitVec 3)) (ts : List (BitVec 8)) :
    (setSide s bs ts).pending = s.pending := rfl
@[simp] theorem setSide_reply (s : State) (bs : List (BitVec 3)) (ts : List (BitVec 8)) :
    (setSide s bs ts).reply = s.reply := rfl
@[simp] theorem setSide_free (s : State) (bs : List (BitVec 3)) (ts : List (BitVec 8)) :
    (setSide s bs ts).free = s.free := rfl

/-! ### cacheSamples -/

@[simp] theorem cacheSamples_status (s : State) (o : List (SVal × SVal)) :
    (cacheSamples s o).status = statusCached s.status := rfl
@[simp] theorem cacheSamples_cur (s : State) (o : List (SVal × SVal)) : (cacheSamples s o).cur = s.cur := rfl
@[simp] theorem cacheSamples_errPos (s : State) (o : List (SVal × SVal)) :
    (cacheSamples s o).errPos = s.errPos := rfl
@[simp] theorem cacheSamples_res (s : State) (o : List (SVal × SVal)) : (cacheSamples s o).res = s.res := rfl
@[simp] theorem cacheSamples_huffSym (s : State) (o : List (SVal × SVal)) :
    (cacheSamples s o).huffSym = s.huffSym := rfl
@[simp] theorem cacheSamples_huffLen (s : State) (o : List (SVal × SVal)) :
    (cacheSamples s o).huffLen = s.huffLen := rfl
@[simp] theorem cacheSamples_baqMode (s : State) (o : List (SVal × SVal)) :
    (cacheSamples s o).baqMode = s.baqMode := rfl
@[simp] theorem cacheSamples_testMode (s : State) (o : List (SVal × SVal)) :
    (cacheSamples s o).testMode = s.testMode := rfl
@[simp] theorem cacheSamples_fmt (s : State) (o : List (SVal × SVal)) : (cacheSamples s o).fmt = s.fmt := rfl
@[simp] theorem cacheSamples_nq (s : State) (o : List (SVal × SVal)) : (cacheSamples s o).nq = s.nq := rfl
@[simp] theorem cacheSamples_nb (s : State) (o : List (SVal × SVal)) : (cacheSamples s o).nb = s.nb := rfl
@[simp] theorem cacheSamples_gb (s : State) (o : List (SVal × SVal)) : (cacheSamples s o).gb = s.gb := rfl
@[simp] theorem cacheSamples_ph (s : State) (o : List (SVal × SVal)) : (cacheSamples s o).ph = s.ph := rfl
@[simp] theorem cacheSamples_sh (s : State) (o : List (SVal × SVal)) : (cacheSamples s o).sh = s.sh := rfl
@[simp] theorem cacheSamples_ud (s : State) (o : List (SVal × SVal)) :
    (cacheSamples s o).ud = releasedBuffer s.free := rfl
@[simp] theorem cacheSamples_map0 (s : State) (o : List (SVal × SVal)) : (cacheSamples s o).map0 = s.map0 := rfl
@[simp] theorem cacheSamples_map1 (s : State) (o : List (SVal × SVal)) : (cacheSamples s o).map1 = s.map1 := rfl
@[simp] theorem cacheSamples_brc (s : State) (o : List (SVal × SVal)) : (cacheSamples s o).brc = s.brc := rfl
@[simp] theorem cacheSamples_thidx (s : State) (o : List (SVal × SVal)) : (cacheSamples s o).thidx = s.thidx := rfl
@[simp] theorem cacheSamples_out (s : State) (o : List (SVal × SVal)) :
    (cacheSamples s o).out = writeFront o s.out := rfl
@[simp] theorem cacheSamples_cfg (s : State) (o : List (SVal × SVal)) : (cacheSamples s o).cfg = s.cfg := rfl
@[simp] theorem cacheSamples_pending (s : State) (o : List (SVal × SVal)) :
    (cacheSamples s o).pending = s.pending := rfl
@[simp] theorem cacheSamples_reply (s : State) (o : List (SVal × SVal)) : (cacheSamples s o).reply = s.reply := rfl
@[simp] theorem cacheSamples_free (s : State) (o : List (SVal × SVal)) : (cacheSamples s o).free = s.free + 1 := rfl

/-! ### scrambleSide -/

@[simp] theorem scrambleSide_status (s : State) : (scrambleSide s).status = s.status := rfl
@[simp] theorem scrambleSide_cur (s : State) : (scrambleSide s).cur = s.cur := rfl
@[simp] theorem scrambleSide_errPos (s : State) : (scrambleSide s).errPos = s.errPos := rfl
@[simp] theorem scrambleSide_res (s : State) : (scrambleSide s).res = s.res := rfl
@[simp] theorem scrambleSide_huffSym (s : State) : (scrambleSide s).huffSym = s.huffSym := rfl
@[simp] theorem scrambleSide_huffLen (s : State) : (scrambleSide s).huffLen = s.huffLen := rfl
@[simp] theorem scrambleSide_baqMode (s : State) : (scrambleSide s).baqMode = s.baqMode := rfl
@[simp] theorem scrambleSide_testMode (s : State) : (scrambleSide s).testMode = s.testMode := rfl
@[simp] theorem scrambleSide_fmt (s : State) : (scrambleSide s).fmt = s.fmt := rfl
@[simp] theorem scrambleSide_nq (s : State) : (scrambleSide s).nq = s.nq := rfl
@[simp] theorem scrambleSide_nb (s : State) : (scrambleSide s).nb = s.nb := rfl
@[simp] theorem scrambleSide_gb (s : State) : (scrambleSide s).gb = s.gb := rfl
@[simp] theorem scrambleSide_ph (s : State) : (scrambleSide s).ph = s.ph := rfl
@[simp] theorem scrambleSide_sh (s : State) : (scrambleSide s).sh = s.sh := rfl
@[simp] theorem scrambleSide_ud (s : State) : (scrambleSide s).ud = s.ud := rfl
@[simp] theorem scrambleSide_map0 (s : State) : (scrambleSide s).map0 = s.map0 := rfl
@[simp] theorem scrambleSide_map1 (s : State) : (scrambleSide s).map1 = s.map1 := rfl
@[simp] theorem scrambleSide_brc (s : State) : (scrambleSide s).brc = (Config.freeBrc s.free).take s.cfg.nbMax := rfl
@[simp] theorem scrambleSide_thidx (s : State) :
    (scrambleSide s).thidx = (Config.freeThidx s.free).take s.cfg.nbMax := rfl
@[simp] theorem scrambleSide_out (s : State) : (scrambleSide s).out = s.out := rfl
@[simp] theorem scrambleSide_cfg (s : State) : (scrambleSide s).cfg = s.cfg := rfl
@[simp] theorem scrambleSide_pending (s : State) : (scrambleSide s).pending = s.pending := rfl
@[simp] theorem scrambleSide_reply (s : State) : (scrambleSide s).reply = s.reply := rfl
@[simp] theorem scrambleSide_free (s : State) : (scrambleSide s).free = s.free + 1 := rfl

/-! ### clearErr -/

@[simp] theorem clearErr_status (s : State) : (clearErr s).status = statusClearErr s.status := rfl
@[simp] theorem clearErr_cur (s : State) : (clearErr s).cur = s.cur := rfl
@[simp] theorem clearErr_errPos (s : State) : (clearErr s).errPos = 0#32 := rfl
@[simp] theorem clearErr_res (s : State) : (clearErr s).res = s.res := rfl
@[simp] theorem clearErr_huffSym (s : State) : (clearErr s).huffSym = s.huffSym := rfl
@[simp] theorem clearErr_huffLen (s : State) : (clearErr s).huffLen = s.huffLen := rfl
@[simp] theorem clearErr_baqMode (s : State) : (clearErr s).baqMode = s.baqMode := rfl
@[simp] theorem clearErr_testMode (s : State) : (clearErr s).testMode = s.testMode := rfl
@[simp] theorem clearErr_fmt (s : State) : (clearErr s).fmt = s.fmt := rfl
@[simp] theorem clearErr_nq (s : State) : (clearErr s).nq = s.nq := rfl
@[simp] theorem clearErr_nb (s : State) : (clearErr s).nb = s.nb := rfl
@[simp] theorem clearErr_gb (s : State) : (clearErr s).gb = s.gb := rfl
@[simp] theorem clearErr_ph (s : State) : (clearErr s).ph = s.ph := rfl
@[simp] theorem clearErr_sh (s : State) : (clearErr s).sh = s.sh := rfl
@[simp] theorem clearErr_ud (s : State) : (clearErr s).ud = s.ud := rfl
@[simp] theorem clearErr_map0 (s : State) : (clearErr s).map0 = s.map0 := rfl
@[simp] theorem clearErr_map1 (s : State) : (clearErr s).map1 = s.map1 := rfl
@[simp] theorem clearErr_brc (s : State) : (clearErr s).brc = s.brc := rfl
@[simp] theorem clearErr_thidx (s : State) : (clearErr s).thidx = s.thidx := rfl
@[simp] theorem clearErr_out (s : State) : (clearErr s).out = s.out := rfl
@[simp] theorem clearErr_cfg (s : State) : (clearErr s).cfg = s.cfg := rfl
@[simp] theorem clearErr_pending (s : State) : (clearErr s).pending = s.pending := rfl
@[simp] theorem clearErr_reply (s : State) : (clearErr s).reply = s.reply := rfl
@[simp] theorem clearErr_free (s : State) : (clearErr s).free = s.free := rfl

/-! ### loadBuffer -/

@[simp] theorem loadBuffer_status (s : State) (b : BufSel) (bs : List Byte) :
    (loadBuffer s b bs).status = statusLoaded s.status b := rfl
@[simp] theorem loadBuffer_cur (s : State) (b : BufSel) (bs : List Byte) : (loadBuffer s b bs).cur = s.cur := rfl
@[simp] theorem loadBuffer_errPos (s : State) (b : BufSel) (bs : List Byte) :
    (loadBuffer s b bs).errPos = s.errPos := rfl
@[simp] theorem loadBuffer_res (s : State) (b : BufSel) (bs : List Byte) : (loadBuffer s b bs).res = s.res := rfl
@[simp] theorem loadBuffer_huffSym (s : State) (b : BufSel) (bs : List Byte) :
    (loadBuffer s b bs).huffSym = s.huffSym := rfl
@[simp] theorem loadBuffer_huffLen (s : State) (b : BufSel) (bs : List Byte) :
    (loadBuffer s b bs).huffLen = s.huffLen := rfl
@[simp] theorem loadBuffer_baqMode (s : State) (b : BufSel) (bs : List Byte) :
    (loadBuffer s b bs).baqMode = s.baqMode := rfl
@[simp] theorem loadBuffer_testMode (s : State) (b : BufSel) (bs : List Byte) :
    (loadBuffer s b bs).testMode = s.testMode := rfl
@[simp] theorem loadBuffer_fmt (s : State) (b : BufSel) (bs : List Byte) : (loadBuffer s b bs).fmt = s.fmt := rfl
@[simp] theorem loadBuffer_nq (s : State) (b : BufSel) (bs : List Byte) : (loadBuffer s b bs).nq = s.nq := rfl
@[simp] theorem loadBuffer_nb (s : State) (b : BufSel) (bs : List Byte) : (loadBuffer s b bs).nb = s.nb := rfl
@[simp] theorem loadBuffer_gb (s : State) (b : BufSel) (bs : List Byte) :
    (loadBuffer s b bs).gb = if b = .gb then bufferOf bs else s.gb := rfl
@[simp] theorem loadBuffer_ph (s : State) (b : BufSel) (bs : List Byte) :
    (loadBuffer s b bs).ph = if b = .ph then bufferOf bs else s.ph := rfl
@[simp] theorem loadBuffer_sh (s : State) (b : BufSel) (bs : List Byte) :
    (loadBuffer s b bs).sh = if b = .sh then bufferOf bs else s.sh := rfl
@[simp] theorem loadBuffer_ud (s : State) (b : BufSel) (bs : List Byte) :
    (loadBuffer s b bs).ud = if b = .ud then bufferOf bs else s.ud := rfl
@[simp] theorem loadBuffer_map0 (s : State) (b : BufSel) (bs : List Byte) : (loadBuffer s b bs).map0 = s.map0 := rfl
@[simp] theorem loadBuffer_map1 (s : State) (b : BufSel) (bs : List Byte) : (loadBuffer s b bs).map1 = s.map1 := rfl
@[simp] theorem loadBuffer_brc (s : State) (b : BufSel) (bs : List Byte) : (loadBuffer s b bs).brc = s.brc := rfl
@[simp] theorem loadBuffer_thidx (s : State) (b : BufSel) (bs : List Byte) :
    (loadBuffer s b bs).thidx = s.thidx := rfl
@[simp] theorem loadBuffer_out (s : State) (b : BufSel) (bs : List Byte) : (loadBuffer s b bs).out = s.out := rfl
@[simp] theorem loadBuffer_cfg (s : State) (b : BufSel) (bs : List Byte) : (loadBuffer s b bs).cfg = s.cfg := rfl
@[simp] theorem loadBuffer_pending (s : State) (b : BufSel) (bs : List Byte) :
    (loadBuffer s b bs).pending = s.pending := rfl
@[simp] theorem loadBuffer_reply (s : State) (b : BufSel) (bs : List Byte) :
    (loadBuffer s b bs).reply = s.reply := rfl
@[simp] theorem loadBuffer_free (s : State) (b : BufSel) (bs : List Byte) : (loadBuffer s b bs).free = s.free := rfl

/-! ### resetCore -/

@[simp] theorem resetCore_status (s : State) : (resetCore s).status = (State.cleared s.cfg).status := rfl
@[simp] theorem resetCore_cur (s : State) : (resetCore s).cur = (State.cleared s.cfg).cur := rfl
@[simp] theorem resetCore_errPos (s : State) : (resetCore s).errPos = (State.cleared s.cfg).errPos := rfl
@[simp] theorem resetCore_res (s : State) : (resetCore s).res = (State.cleared s.cfg).res := rfl
@[simp] theorem resetCore_huffSym (s : State) : (resetCore s).huffSym = (State.cleared s.cfg).huffSym := rfl
@[simp] theorem resetCore_huffLen (s : State) : (resetCore s).huffLen = (State.cleared s.cfg).huffLen := rfl
@[simp] theorem resetCore_baqMode (s : State) : (resetCore s).baqMode = (State.cleared s.cfg).baqMode := rfl
@[simp] theorem resetCore_testMode (s : State) : (resetCore s).testMode = (State.cleared s.cfg).testMode := rfl
@[simp] theorem resetCore_fmt (s : State) : (resetCore s).fmt = (State.cleared s.cfg).fmt := rfl
@[simp] theorem resetCore_nq (s : State) : (resetCore s).nq = (State.cleared s.cfg).nq := rfl
@[simp] theorem resetCore_nb (s : State) : (resetCore s).nb = (State.cleared s.cfg).nb := rfl
@[simp] theorem resetCore_gb (s : State) : (resetCore s).gb = (State.cleared s.cfg).gb := rfl
@[simp] theorem resetCore_ph (s : State) : (resetCore s).ph = (State.cleared s.cfg).ph := rfl
@[simp] theorem resetCore_sh (s : State) : (resetCore s).sh = (State.cleared s.cfg).sh := rfl
@[simp] theorem resetCore_ud (s : State) : (resetCore s).ud = (State.cleared s.cfg).ud := rfl
@[simp] theorem resetCore_map0 (s : State) : (resetCore s).map0 = (State.cleared s.cfg).map0 := rfl
@[simp] theorem resetCore_map1 (s : State) : (resetCore s).map1 = (State.cleared s.cfg).map1 := rfl
@[simp] theorem resetCore_brc (s : State) : (resetCore s).brc = (State.cleared s.cfg).brc := rfl
@[simp] theorem resetCore_thidx (s : State) : (resetCore s).thidx = (State.cleared s.cfg).thidx := rfl
@[simp] theorem resetCore_out (s : State) : (resetCore s).out = (State.cleared s.cfg).out := rfl
@[simp] theorem resetCore_cfg (s : State) : (resetCore s).cfg = s.cfg := rfl
@[simp] theorem resetCore_pending (s : State) : (resetCore s).pending = s.pending := rfl
@[simp] theorem resetCore_reply (s : State) : (resetCore s).reply = none := rfl
@[simp] theorem resetCore_free (s : State) : (resetCore s).free = s.free := rfl

/-! ### startCommand -/

@[simp] theorem startCommand_status (s : State) : (startCommand s).status = { s.status with busy := true } := rfl
@[simp] theorem startCommand_cur (s : State) : (startCommand s).cur = s.cur := rfl
@[simp] theorem startCommand_errPos (s : State) : (startCommand s).errPos = s.errPos := rfl
@[simp] theorem startCommand_res (s : State) : (startCommand s).res = s.res := rfl
@[simp] theorem startCommand_huffSym (s : State) : (startCommand s).huffSym = s.huffSym := rfl
@[simp] theorem startCommand_huffLen (s : State) : (startCommand s).huffLen = s.huffLen := rfl
@[simp] theorem startCommand_baqMode (s : State) : (startCommand s).baqMode = s.baqMode := rfl
@[simp] theorem startCommand_testMode (s : State) : (startCommand s).testMode = s.testMode := rfl
@[simp] theorem startCommand_fmt (s : State) : (startCommand s).fmt = s.fmt := rfl
@[simp] theorem startCommand_nq (s : State) : (startCommand s).nq = s.nq := rfl
@[simp] theorem startCommand_nb (s : State) : (startCommand s).nb = s.nb := rfl
@[simp] theorem startCommand_gb (s : State) : (startCommand s).gb = s.gb := rfl
@[simp] theorem startCommand_ph (s : State) : (startCommand s).ph = s.ph := rfl
@[simp] theorem startCommand_sh (s : State) : (startCommand s).sh = s.sh := rfl
@[simp] theorem startCommand_ud (s : State) : (startCommand s).ud = s.ud := rfl
@[simp] theorem startCommand_map0 (s : State) : (startCommand s).map0 = s.map0 := rfl
@[simp] theorem startCommand_map1 (s : State) : (startCommand s).map1 = s.map1 := rfl
@[simp] theorem startCommand_brc (s : State) : (startCommand s).brc = s.brc := rfl
@[simp] theorem startCommand_thidx (s : State) : (startCommand s).thidx = s.thidx := rfl
@[simp] theorem startCommand_out (s : State) : (startCommand s).out = s.out := rfl
@[simp] theorem startCommand_cfg (s : State) : (startCommand s).cfg = s.cfg := rfl
@[simp] theorem startCommand_pending (s : State) : (startCommand s).pending = s.pending := rfl
@[simp] theorem startCommand_reply (s : State) : (startCommand s).reply = s.reply := rfl
@[simp] theorem startCommand_free (s : State) : (startCommand s).free = s.free := rfl

/-! ### completeOk -/

@[simp] theorem completeOk_status (s : State) : (completeOk s).status = statusOk s.status := rfl
@[simp] theorem completeOk_cur (s : State) : (completeOk s).cur = s.cur := rfl
@[simp] theorem completeOk_errPos (s : State) : (completeOk s).errPos = s.errPos := rfl
@[simp] theorem completeOk_res (s : State) : (completeOk s).res = s.res := rfl
@[simp] theorem completeOk_huffSym (s : State) : (completeOk s).huffSym = s.huffSym := rfl
@[simp] theorem completeOk_huffLen (s : State) : (completeOk s).huffLen = s.huffLen := rfl
@[simp] theorem completeOk_baqMode (s : State) : (completeOk s).baqMode = s.baqMode := rfl
@[simp] theorem completeOk_testMode (s : State) : (completeOk s).testMode = s.testMode := rfl
@[simp] theorem completeOk_fmt (s : State) : (completeOk s).fmt = s.fmt := rfl
@[simp] theorem completeOk_nq (s : State) : (completeOk s).nq = s.nq := rfl
@[simp] theorem completeOk_nb (s : State) : (completeOk s).nb = s.nb := rfl
@[simp] theorem completeOk_gb (s : State) : (completeOk s).gb = s.gb := rfl
@[simp] theorem completeOk_ph (s : State) : (completeOk s).ph = s.ph := rfl
@[simp] theorem completeOk_sh (s : State) : (completeOk s).sh = s.sh := rfl
@[simp] theorem completeOk_ud (s : State) : (completeOk s).ud = s.ud := rfl
@[simp] theorem completeOk_map0 (s : State) : (completeOk s).map0 = s.map0 := rfl
@[simp] theorem completeOk_map1 (s : State) : (completeOk s).map1 = s.map1 := rfl
@[simp] theorem completeOk_brc (s : State) : (completeOk s).brc = s.brc := rfl
@[simp] theorem completeOk_thidx (s : State) : (completeOk s).thidx = s.thidx := rfl
@[simp] theorem completeOk_out (s : State) : (completeOk s).out = s.out := rfl
@[simp] theorem completeOk_cfg (s : State) : (completeOk s).cfg = s.cfg := rfl
@[simp] theorem completeOk_pending (s : State) : (completeOk s).pending = s.pending := rfl
@[simp] theorem completeOk_reply (s : State) : (completeOk s).reply = s.reply := rfl
@[simp] theorem completeOk_free (s : State) : (completeOk s).free = s.free := rfl

/-! ### completeRaise -/

@[simp] theorem completeRaise_status (s : State) (e : Raise) :
    (completeRaise s e).status = statusRaised s.status e.kind := rfl
@[simp] theorem completeRaise_cur (s : State) (e : Raise) : (completeRaise s e).cur = s.cur := rfl
@[simp] theorem completeRaise_errPos (s : State) (e : Raise) :
    (completeRaise s e).errPos = bif s.status.err then s.errPos else BitVec.ofNat 32 e.pos := rfl
@[simp] theorem completeRaise_res (s : State) (e : Raise) : (completeRaise s e).res = s.res := rfl
@[simp] theorem completeRaise_huffSym (s : State) (e : Raise) : (completeRaise s e).huffSym = s.huffSym := rfl
@[simp] theorem completeRaise_huffLen (s : State) (e : Raise) : (completeRaise s e).huffLen = s.huffLen := rfl
@[simp] theorem completeRaise_baqMode (s : State) (e : Raise) : (completeRaise s e).baqMode = s.baqMode := rfl
@[simp] theorem completeRaise_testMode (s : State) (e : Raise) : (completeRaise s e).testMode = s.testMode := rfl
@[simp] theorem completeRaise_fmt (s : State) (e : Raise) : (completeRaise s e).fmt = s.fmt := rfl
@[simp] theorem completeRaise_nq (s : State) (e : Raise) : (completeRaise s e).nq = s.nq := rfl
@[simp] theorem completeRaise_nb (s : State) (e : Raise) : (completeRaise s e).nb = s.nb := rfl
@[simp] theorem completeRaise_gb (s : State) (e : Raise) : (completeRaise s e).gb = s.gb := rfl
@[simp] theorem completeRaise_ph (s : State) (e : Raise) : (completeRaise s e).ph = s.ph := rfl
@[simp] theorem completeRaise_sh (s : State) (e : Raise) : (completeRaise s e).sh = s.sh := rfl
@[simp] theorem completeRaise_ud (s : State) (e : Raise) : (completeRaise s e).ud = s.ud := rfl
@[simp] theorem completeRaise_map0 (s : State) (e : Raise) : (completeRaise s e).map0 = s.map0 := rfl
@[simp] theorem completeRaise_map1 (s : State) (e : Raise) : (completeRaise s e).map1 = s.map1 := rfl
@[simp] theorem completeRaise_brc (s : State) (e : Raise) : (completeRaise s e).brc = s.brc := rfl
@[simp] theorem completeRaise_thidx (s : State) (e : Raise) : (completeRaise s e).thidx = s.thidx := rfl
@[simp] theorem completeRaise_out (s : State) (e : Raise) : (completeRaise s e).out = s.out := rfl
@[simp] theorem completeRaise_cfg (s : State) (e : Raise) : (completeRaise s e).cfg = s.cfg := rfl
@[simp] theorem completeRaise_pending (s : State) (e : Raise) : (completeRaise s e).pending = s.pending := rfl
@[simp] theorem completeRaise_reply (s : State) (e : Raise) : (completeRaise s e).reply = s.reply := rfl
@[simp] theorem completeRaise_free (s : State) (e : Raise) : (completeRaise s e).free = s.free := rfl

/-! ### takeNext -/

@[simp] theorem takeNext_status (s : State) (ts : List Transaction) : (takeNext s ts).status = s.status := rfl
@[simp] theorem takeNext_cur (s : State) (ts : List Transaction) : (takeNext s ts).cur = s.cur := rfl
@[simp] theorem takeNext_errPos (s : State) (ts : List Transaction) : (takeNext s ts).errPos = s.errPos := rfl
@[simp] theorem takeNext_res (s : State) (ts : List Transaction) : (takeNext s ts).res = s.res := rfl
@[simp] theorem takeNext_huffSym (s : State) (ts : List Transaction) : (takeNext s ts).huffSym = s.huffSym := rfl
@[simp] theorem takeNext_huffLen (s : State) (ts : List Transaction) : (takeNext s ts).huffLen = s.huffLen := rfl
@[simp] theorem takeNext_baqMode (s : State) (ts : List Transaction) : (takeNext s ts).baqMode = s.baqMode := rfl
@[simp] theorem takeNext_testMode (s : State) (ts : List Transaction) : (takeNext s ts).testMode = s.testMode := rfl
@[simp] theorem takeNext_fmt (s : State) (ts : List Transaction) : (takeNext s ts).fmt = s.fmt := rfl
@[simp] theorem takeNext_nq (s : State) (ts : List Transaction) : (takeNext s ts).nq = s.nq := rfl
@[simp] theorem takeNext_nb (s : State) (ts : List Transaction) : (takeNext s ts).nb = s.nb := rfl
@[simp] theorem takeNext_gb (s : State) (ts : List Transaction) : (takeNext s ts).gb = s.gb := rfl
@[simp] theorem takeNext_ph (s : State) (ts : List Transaction) : (takeNext s ts).ph = s.ph := rfl
@[simp] theorem takeNext_sh (s : State) (ts : List Transaction) : (takeNext s ts).sh = s.sh := rfl
@[simp] theorem takeNext_ud (s : State) (ts : List Transaction) : (takeNext s ts).ud = s.ud := rfl
@[simp] theorem takeNext_map0 (s : State) (ts : List Transaction) : (takeNext s ts).map0 = s.map0 := rfl
@[simp] theorem takeNext_map1 (s : State) (ts : List Transaction) : (takeNext s ts).map1 = s.map1 := rfl
@[simp] theorem takeNext_brc (s : State) (ts : List Transaction) : (takeNext s ts).brc = s.brc := rfl
@[simp] theorem takeNext_thidx (s : State) (ts : List Transaction) : (takeNext s ts).thidx = s.thidx := rfl
@[simp] theorem takeNext_out (s : State) (ts : List Transaction) : (takeNext s ts).out = s.out := rfl
@[simp] theorem takeNext_cfg (s : State) (ts : List Transaction) : (takeNext s ts).cfg = s.cfg := rfl
@[simp] theorem takeNext_pending (s : State) (ts : List Transaction) : (takeNext s ts).pending = ts := rfl
@[simp] theorem takeNext_reply (s : State) (ts : List Transaction) : (takeNext s ts).reply = none := rfl
@[simp] theorem takeNext_free (s : State) (ts : List Transaction) : (takeNext s ts).free = s.free := rfl

/-! ### giveReply -/

@[simp] theorem giveReply_status (s : State) (r : Reply) : (giveReply s r).status = s.status := rfl
@[simp] theorem giveReply_cur (s : State) (r : Reply) : (giveReply s r).cur = s.cur := rfl
@[simp] theorem giveReply_errPos (s : State) (r : Reply) : (giveReply s r).errPos = s.errPos := rfl
@[simp] theorem giveReply_res (s : State) (r : Reply) : (giveReply s r).res = s.res := rfl
@[simp] theorem giveReply_huffSym (s : State) (r : Reply) : (giveReply s r).huffSym = s.huffSym := rfl
@[simp] theorem giveReply_huffLen (s : State) (r : Reply) : (giveReply s r).huffLen = s.huffLen := rfl
@[simp] theorem giveReply_baqMode (s : State) (r : Reply) : (giveReply s r).baqMode = s.baqMode := rfl
@[simp] theorem giveReply_testMode (s : State) (r : Reply) : (giveReply s r).testMode = s.testMode := rfl
@[simp] theorem giveReply_fmt (s : State) (r : Reply) : (giveReply s r).fmt = s.fmt := rfl
@[simp] theorem giveReply_nq (s : State) (r : Reply) : (giveReply s r).nq = s.nq := rfl
@[simp] theorem giveReply_nb (s : State) (r : Reply) : (giveReply s r).nb = s.nb := rfl
@[simp] theorem giveReply_gb (s : State) (r : Reply) : (giveReply s r).gb = s.gb := rfl
@[simp] theorem giveReply_ph (s : State) (r : Reply) : (giveReply s r).ph = s.ph := rfl
@[simp] theorem giveReply_sh (s : State) (r : Reply) : (giveReply s r).sh = s.sh := rfl
@[simp] theorem giveReply_ud (s : State) (r : Reply) : (giveReply s r).ud = s.ud := rfl
@[simp] theorem giveReply_map0 (s : State) (r : Reply) : (giveReply s r).map0 = s.map0 := rfl
@[simp] theorem giveReply_map1 (s : State) (r : Reply) : (giveReply s r).map1 = s.map1 := rfl
@[simp] theorem giveReply_brc (s : State) (r : Reply) : (giveReply s r).brc = s.brc := rfl
@[simp] theorem giveReply_thidx (s : State) (r : Reply) : (giveReply s r).thidx = s.thidx := rfl
@[simp] theorem giveReply_out (s : State) (r : Reply) : (giveReply s r).out = s.out := rfl
@[simp] theorem giveReply_cfg (s : State) (r : Reply) : (giveReply s r).cfg = s.cfg := rfl
@[simp] theorem giveReply_pending (s : State) (r : Reply) : (giveReply s r).pending = s.pending := rfl
@[simp] theorem giveReply_reply (s : State) (r : Reply) : (giveReply s r).reply = some r := rfl
@[simp] theorem giveReply_free (s : State) (r : Reply) : (giveReply s r).free = s.free := rfl

/-! ### issueWord -/

@[simp] theorem issueWord_status (s : State) (v : Word) :
    (issueWord v s).status = { s.status with busy := false } := rfl
@[simp] theorem issueWord_cur (s : State) (v : Word) : (issueWord v s).cur = s.cur := rfl
@[simp] theorem issueWord_errPos (s : State) (v : Word) : (issueWord v s).errPos = s.errPos := rfl
@[simp] theorem issueWord_res (s : State) (v : Word) : (issueWord v s).res = s.res := rfl
@[simp] theorem issueWord_huffSym (s : State) (v : Word) : (issueWord v s).huffSym = s.huffSym := rfl
@[simp] theorem issueWord_huffLen (s : State) (v : Word) : (issueWord v s).huffLen = s.huffLen := rfl
@[simp] theorem issueWord_baqMode (s : State) (v : Word) : (issueWord v s).baqMode = s.baqMode := rfl
@[simp] theorem issueWord_testMode (s : State) (v : Word) : (issueWord v s).testMode = s.testMode := rfl
@[simp] theorem issueWord_fmt (s : State) (v : Word) : (issueWord v s).fmt = s.fmt := rfl
@[simp] theorem issueWord_nq (s : State) (v : Word) : (issueWord v s).nq = s.nq := rfl
@[simp] theorem issueWord_nb (s : State) (v : Word) : (issueWord v s).nb = s.nb := rfl
@[simp] theorem issueWord_gb (s : State) (v : Word) : (issueWord v s).gb = s.gb := rfl
@[simp] theorem issueWord_ph (s : State) (v : Word) : (issueWord v s).ph = s.ph := rfl
@[simp] theorem issueWord_sh (s : State) (v : Word) : (issueWord v s).sh = s.sh := rfl
@[simp] theorem issueWord_ud (s : State) (v : Word) : (issueWord v s).ud = s.ud := rfl
@[simp] theorem issueWord_map0 (s : State) (v : Word) : (issueWord v s).map0 = s.map0 := rfl
@[simp] theorem issueWord_map1 (s : State) (v : Word) : (issueWord v s).map1 = s.map1 := rfl
@[simp] theorem issueWord_brc (s : State) (v : Word) : (issueWord v s).brc = s.brc := rfl
@[simp] theorem issueWord_thidx (s : State) (v : Word) : (issueWord v s).thidx = s.thidx := rfl
@[simp] theorem issueWord_out (s : State) (v : Word) : (issueWord v s).out = s.out := rfl
@[simp] theorem issueWord_cfg (s : State) (v : Word) : (issueWord v s).cfg = s.cfg := rfl
@[simp] theorem issueWord_pending (s : State) (v : Word) : (issueWord v s).pending = .wr 0#6 v :: s.pending := rfl
@[simp] theorem issueWord_reply (s : State) (v : Word) : (issueWord v s).reply = s.reply := rfl
@[simp] theorem issueWord_free (s : State) (v : Word) : (issueWord v s).free = s.free := rfl

/-! ### statusOk -/

@[simp] theorem statusOk_busy (t : Status) : (statusOk t).busy = false := rfl
@[simp] theorem statusOk_err (t : Status) : (statusOk t).err = t.err := rfl
@[simp] theorem statusOk_multiErr (t : Status) : (statusOk t).multiErr = t.multiErr := rfl
@[simp] theorem statusOk_lastOk (t : Status) : (statusOk t).lastOk = true := rfl
@[simp] theorem statusOk_resValid (t : Status) : (statusOk t).resValid = t.resValid := rfl
@[simp] theorem statusOk_huffValid (t : Status) : (statusOk t).huffValid = t.huffValid := rfl
@[simp] theorem statusOk_map0Valid (t : Status) : (statusOk t).map0Valid = t.map0Valid := rfl
@[simp] theorem statusOk_map1Valid (t : Status) : (statusOk t).map1Valid = t.map1Valid := rfl
@[simp] theorem statusOk_pktValid (t : Status) : (statusOk t).pktValid = t.pktValid := rfl
@[simp] theorem statusOk_cacheValid (t : Status) : (statusOk t).cacheValid = t.cacheValid := rfl
@[simp] theorem statusOk_udReleased (t : Status) : (statusOk t).udReleased = t.udReleased := rfl
@[simp] theorem statusOk_errCode (t : Status) : (statusOk t).errCode = t.errCode := rfl

/-! ### statusRaised -/

@[simp] theorem statusRaised_busy (t : Status) (k : ErrKind) : (statusRaised t k).busy = false := rfl
@[simp] theorem statusRaised_err (t : Status) (k : ErrKind) : (statusRaised t k).err = true := rfl
@[simp] theorem statusRaised_multiErr (t : Status) (k : ErrKind) : (statusRaised t k).multiErr = (t.multiErr || t.err) := rfl
@[simp] theorem statusRaised_lastOk (t : Status) (k : ErrKind) : (statusRaised t k).lastOk = false := rfl
@[simp] theorem statusRaised_resValid (t : Status) (k : ErrKind) : (statusRaised t k).resValid = t.resValid := rfl
@[simp] theorem statusRaised_huffValid (t : Status) (k : ErrKind) : (statusRaised t k).huffValid = t.huffValid := rfl
@[simp] theorem statusRaised_map0Valid (t : Status) (k : ErrKind) : (statusRaised t k).map0Valid = t.map0Valid := rfl
@[simp] theorem statusRaised_map1Valid (t : Status) (k : ErrKind) : (statusRaised t k).map1Valid = t.map1Valid := rfl
@[simp] theorem statusRaised_pktValid (t : Status) (k : ErrKind) : (statusRaised t k).pktValid = t.pktValid := rfl
@[simp] theorem statusRaised_cacheValid (t : Status) (k : ErrKind) : (statusRaised t k).cacheValid = t.cacheValid := rfl
@[simp] theorem statusRaised_udReleased (t : Status) (k : ErrKind) : (statusRaised t k).udReleased = t.udReleased := rfl
@[simp] theorem statusRaised_errCode (t : Status) (k : ErrKind) : (statusRaised t k).errCode = bif t.err then t.errCode else errCode k := rfl

/-! ### statusClearErr -/

@[simp] theorem statusClearErr_busy (t : Status) : (statusClearErr t).busy = t.busy := rfl
@[simp] theorem statusClearErr_err (t : Status) : (statusClearErr t).err = false := rfl
@[simp] theorem statusClearErr_multiErr (t : Status) : (statusClearErr t).multiErr = false := rfl
@[simp] theorem statusClearErr_lastOk (t : Status) : (statusClearErr t).lastOk = t.lastOk := rfl
@[simp] theorem statusClearErr_resValid (t : Status) : (statusClearErr t).resValid = t.resValid := rfl
@[simp] theorem statusClearErr_huffValid (t : Status) : (statusClearErr t).huffValid = t.huffValid := rfl
@[simp] theorem statusClearErr_map0Valid (t : Status) : (statusClearErr t).map0Valid = t.map0Valid := rfl
@[simp] theorem statusClearErr_map1Valid (t : Status) : (statusClearErr t).map1Valid = t.map1Valid := rfl
@[simp] theorem statusClearErr_pktValid (t : Status) : (statusClearErr t).pktValid = t.pktValid := rfl
@[simp] theorem statusClearErr_cacheValid (t : Status) : (statusClearErr t).cacheValid = t.cacheValid := rfl
@[simp] theorem statusClearErr_udReleased (t : Status) : (statusClearErr t).udReleased = t.udReleased := rfl
@[simp] theorem statusClearErr_errCode (t : Status) : (statusClearErr t).errCode = 0#4 := rfl

/-! ### statusLoaded -/

@[simp] theorem statusLoaded_busy (t : Status) (b : BufSel) : (statusLoaded t b).busy = t.busy := rfl
@[simp] theorem statusLoaded_err (t : Status) (b : BufSel) : (statusLoaded t b).err = t.err := rfl
@[simp] theorem statusLoaded_multiErr (t : Status) (b : BufSel) : (statusLoaded t b).multiErr = t.multiErr := rfl
@[simp] theorem statusLoaded_lastOk (t : Status) (b : BufSel) : (statusLoaded t b).lastOk = t.lastOk := rfl
@[simp] theorem statusLoaded_resValid (t : Status) (b : BufSel) : (statusLoaded t b).resValid = t.resValid := rfl
@[simp] theorem statusLoaded_huffValid (t : Status) (b : BufSel) : (statusLoaded t b).huffValid = t.huffValid := rfl
@[simp] theorem statusLoaded_map0Valid (t : Status) (b : BufSel) : (statusLoaded t b).map0Valid = t.map0Valid := rfl
@[simp] theorem statusLoaded_map1Valid (t : Status) (b : BufSel) : (statusLoaded t b).map1Valid = t.map1Valid := rfl
@[simp] theorem statusLoaded_pktValid (t : Status) (b : BufSel) : (statusLoaded t b).pktValid = (t.pktValid && b == .gb) := rfl
@[simp] theorem statusLoaded_cacheValid (t : Status) (b : BufSel) : (statusLoaded t b).cacheValid = (t.cacheValid && b == .gb) := rfl
@[simp] theorem statusLoaded_udReleased (t : Status) (b : BufSel) : (statusLoaded t b).udReleased = (t.udReleased && !(b == .ud)) := rfl
@[simp] theorem statusLoaded_errCode (t : Status) (b : BufSel) : (statusLoaded t b).errCode = t.errCode := rfl

/-! ### statusExtracted -/

@[simp] theorem statusExtracted_busy (t : Status) (m : Bool) : (statusExtracted t m).busy = t.busy := rfl
@[simp] theorem statusExtracted_err (t : Status) (m : Bool) : (statusExtracted t m).err = t.err := rfl
@[simp] theorem statusExtracted_multiErr (t : Status) (m : Bool) : (statusExtracted t m).multiErr = t.multiErr := rfl
@[simp] theorem statusExtracted_lastOk (t : Status) (m : Bool) : (statusExtracted t m).lastOk = t.lastOk := rfl
@[simp] theorem statusExtracted_resValid (t : Status) (m : Bool) : (statusExtracted t m).resValid = t.resValid := rfl
@[simp] theorem statusExtracted_huffValid (t : Status) (m : Bool) : (statusExtracted t m).huffValid = t.huffValid := rfl
@[simp] theorem statusExtracted_map0Valid (t : Status) (m : Bool) : (statusExtracted t m).map0Valid = (t.map0Valid || !m) := rfl
@[simp] theorem statusExtracted_map1Valid (t : Status) (m : Bool) : (statusExtracted t m).map1Valid = (t.map1Valid || m) := rfl
@[simp] theorem statusExtracted_pktValid (t : Status) (m : Bool) : (statusExtracted t m).pktValid = false := rfl
@[simp] theorem statusExtracted_cacheValid (t : Status) (m : Bool) : (statusExtracted t m).cacheValid = false := rfl
@[simp] theorem statusExtracted_udReleased (t : Status) (m : Bool) : (statusExtracted t m).udReleased = t.udReleased := rfl
@[simp] theorem statusExtracted_errCode (t : Status) (m : Bool) : (statusExtracted t m).errCode = t.errCode := rfl

/-! ### statusConstructed -/

@[simp] theorem statusConstructed_busy (t : Status) : (statusConstructed t).busy = t.busy := rfl
@[simp] theorem statusConstructed_err (t : Status) : (statusConstructed t).err = t.err := rfl
@[simp] theorem statusConstructed_multiErr (t : Status) : (statusConstructed t).multiErr = t.multiErr := rfl
@[simp] theorem statusConstructed_lastOk (t : Status) : (statusConstructed t).lastOk = t.lastOk := rfl
@[simp] theorem statusConstructed_resValid (t : Status) : (statusConstructed t).resValid = t.resValid := rfl
@[simp] theorem statusConstructed_huffValid (t : Status) : (statusConstructed t).huffValid = t.huffValid := rfl
@[simp] theorem statusConstructed_map0Valid (t : Status) : (statusConstructed t).map0Valid = t.map0Valid := rfl
@[simp] theorem statusConstructed_map1Valid (t : Status) : (statusConstructed t).map1Valid = t.map1Valid := rfl
@[simp] theorem statusConstructed_pktValid (t : Status) : (statusConstructed t).pktValid = true := rfl
@[simp] theorem statusConstructed_cacheValid (t : Status) : (statusConstructed t).cacheValid = false := rfl
@[simp] theorem statusConstructed_udReleased (t : Status) : (statusConstructed t).udReleased = t.udReleased := rfl
@[simp] theorem statusConstructed_errCode (t : Status) : (statusConstructed t).errCode = t.errCode := rfl

/-! ### statusCached -/

@[simp] theorem statusCached_busy (t : Status) : (statusCached t).busy = t.busy := rfl
@[simp] theorem statusCached_err (t : Status) : (statusCached t).err = t.err := rfl
@[simp] theorem statusCached_multiErr (t : Status) : (statusCached t).multiErr = t.multiErr := rfl
@[simp] theorem statusCached_lastOk (t : Status) : (statusCached t).lastOk = t.lastOk := rfl
@[simp] theorem statusCached_resValid (t : Status) : (statusCached t).resValid = t.resValid := rfl
@[simp] theorem statusCached_huffValid (t : Status) : (statusCached t).huffValid = t.huffValid := rfl
@[simp] theorem statusCached_map0Valid (t : Status) : (statusCached t).map0Valid = t.map0Valid := rfl
@[simp] theorem statusCached_map1Valid (t : Status) : (statusCached t).map1Valid = t.map1Valid := rfl
@[simp] theorem statusCached_pktValid (t : Status) : (statusCached t).pktValid = t.pktValid := rfl
@[simp] theorem statusCached_cacheValid (t : Status) : (statusCached t).cacheValid = true := rfl
@[simp] theorem statusCached_udReleased (t : Status) : (statusCached t).udReleased = true := rfl
@[simp] theorem statusCached_errCode (t : Status) : (statusCached t).errCode = t.errCode := rfl

end Sys2Proof.Machine
end

