-- ==== Sys2Proof/Laws/Commands.lean ====
section
/-! SUPPORT. Each command as its body under `complete` (60_exceptions R324), and everything the bodies and the decoders can
do; a proof cites these and does not unfold a command. -/

namespace Sys2Proof.Machine

@[simp] theorem complete_ok (s t : State) : complete s (.ok t) = completeOk t := rfl

@[simp] theorem complete_error (s : State) (e : Raise) : complete s (.error e) = completeRaise s e := rfl

theorem exec_readBits (b : BufSel) (a : Bool) (n : BitVec 7) (s : State) :
    exec (.readBits b a n) s = .next (complete s (readBitsResult b a n s)) := rfl

theorem exec_align (s : State) : exec .align s = .next (complete s (alignResult s)) := rfl

theorem exec_huff (b : BufSel) (m : BitVec 3) (s : State) :
    exec (.huff b m) s = .next (complete s (huffResult b m s)) := rfl

theorem exec_extract {t : BitVec 3} (ht : t.toNat ≤ 1) (b : BufSel) (s : State) :
    exec (.extract b t) s = .next (complete s (extractResult b (t.toNat == 1) s)) := by
  simp only [exec, execExtract]
  rw [if_neg (by omega)]

theorem exec_construct (s : State) : exec .construct s = .next (complete s (constructResult s)) := rfl

theorem exec_getSamples_ok {s t : State} (h : getSamplesResult s = .ok t) :
    exec .getSamples s = .next (completeOk t) := by
  simp [exec, execGetSamples, h]

theorem exec_getSamples_error {s : State} {e : Raise} (h : getSamplesResult s = .error e) :
    exec .getSamples s = .next (completeRaise (afterFailedSamples s) e) := by
  simp [exec, execGetSamples, h]

/-- A successful Huffman search ends at the first length whose prefix is a key, within the buffer. -/
theorem huffLoop_ok {c : Config} {buf : Buffer} {t : ModeTables} {p : Nat} {fuel len : Nat} {sym : Byte} {l : Nat}
    (h : huffLoop c buf t p fuel len = .ok (sym, l)) :
    (len ≤ l ∧ l < len + fuel) ∧ p + l ≤ 8 * bufLen buf ∧ huffLookup t l (bitsValue buf p l) = some sym ∧
      ∀ k, len ≤ k → k < l → huffLookup t k (bitsValue buf p k) = none := by
  induction fuel generalizing len with
  | zero => cases h
  | succ fuel ih =>
    unfold huffLoop at h
    split at h
    · cases h
    · next v hv =>
      obtain ⟨-, hfit, rfl⟩ := readBits_ok_iff.mp hv
      split at h
      · next y hy =>
        cases h
        exact ⟨by omega, hfit, hy, fun k _ _ => by omega⟩
      · next hn =>
        obtain ⟨hl, hf, hk, hm⟩ := ih h
        refine ⟨by omega, hf, hk, fun k h1 h2 => ?_⟩
        rcases Nat.eq_or_lt_of_le h1 with rfl | h3
        · exact hn
        · exact hm k h3 h2

/-- A Huffman search raises BufferTooShort or HuffmanDecodeError, always at the start of the code. -/
theorem huffLoop_error {c : Config} {buf : Buffer} {t : ModeTables} {p : Nat} {fuel len : Nat} {e : Raise}
    (hlen : 1 ≤ len) (hmax : len + fuel ≤ 65) (h : huffLoop c buf t p fuel len = .error e) :
    e = ⟨.bufferTooShort, p⟩ ∨ e = ⟨.huffmanDecodeError, p⟩ := by
  induction fuel generalizing len with
  | zero => cases h; exact .inr rfl
  | succ fuel ih =>
    unfold huffLoop at h
    split at h
    · next e' he =>
      cases h
      rcases readBits_error_iff.mp he with ⟨g, -⟩ | ⟨-, -, rfl⟩
      · omega
      · exact .inl rfl
    · split at h
      · cases h
      · exact ih (by omega) (by omega) h

end Sys2Proof.Machine
end

