-- ==== Sys2Proof/Laws/Decoding.lean ====
section
/-! SUPPORT. What the sample decoders can do: how many codes they give, and which errors they raise. -/

namespace Sys2Proof.Machine

/-- Every error of a Huffman decode stands at the start of the code (41_huffman R174). -/
theorem huffDecode_error {c : Config} {buf : Buffer} {b p : Nat} {e : Raise} (h : huffDecode c buf b p = .error e) :
    e.pos = p ∧ (e.kind = .invalidBrc ∨ e.kind = .bufferTooShort ∨ e.kind = .huffmanDecodeError) := by
  have hs := c.shortcut_range
  have hm := c.huffMaxLen_range
  have hl : b ≤ c.brcMax → ∀ e, huffSearch c buf b p = .error e →
      e.pos = p ∧ (e.kind = .invalidBrc ∨ e.kind = .bufferTooShort ∨ e.kind = .huffmanDecodeError) := by
    intro hb e he
    have hst := c.mode_startLen hb
    rcases huffLoop_error hst.1 (by omega) he with rfl | rfl
    · simp
    · simp
  unfold huffDecode at h
  split_ifs at h with h1 h2
  · cases h
    simp
  · split at h
    · next e' he =>
      cases h
      rcases readBits_error_iff.mp he with ⟨g, -⟩ | ⟨-, -, rfl⟩
      · omega
      · simp
    · split_ifs at h
      exact hl (by omega) e h
  · exact hl (by omega) e h

/-- The codes of `n` samples that fit, and the cursor after them. -/
theorem codesAB_ok {c : Config} {ud : Buffer} {n ic : Nat} (h : n = 0 ∨ ic + abCodeBits c * n ≤ 8 * bufLen ud) :
    codesAB c ud n ic =
      .ok ((List.range n).map (fun q =>
          ⟨bitsValue ud (ic + abCodeBits c * q) c.abSignBits == 1,
           bitsValue ud (ic + abCodeBits c * q + c.abSignBits) c.abMagBits⟩),
        ic + abCodeBits c * n) := by
  have hb := c.fieldBits_range
  induction n generalizing ic with
  | zero => simp [codesAB]
  | succ n ih =>
    have e : abCodeBits c * (n + 1) = abCodeBits c * n + abCodeBits c := by ring
    have e2 : abCodeBits c = c.abSignBits + c.abMagBits := rfl
    have h : ic + abCodeBits c * (n + 1) ≤ 8 * bufLen ud := by omega
    rw [codesAB, readBits_ok (by omega) (by omega) (by omega)]
    simp only
    rw [readBits_ok (by omega) (by omega) (by omega)]
    simp only
    rw [ih (.inr (by omega))]
    simp only
    rw [List.range_succ_eq_map, List.map_cons, List.map_map]
    congr 1
    refine Prod.ext ?_ (by simp only; omega)
    simp only [Nat.mul_zero, Nat.add_zero]
    congr 1
    apply List.map_congr_left
    intro q _
    have hq : abCodeBits c * q.succ = abCodeBits c * q + abCodeBits c := by rw [Nat.mul_succ]
    simp only [Function.comp, hq]
    congr 3 <;> omega

/-- Codes that do not fit raise BufferTooShort. -/
theorem codesAB_short {c : Config} {ud : Buffer} {n ic : Nat}
    (h : ¬ (n = 0 ∨ ic + abCodeBits c * n ≤ 8 * bufLen ud)) :
    ∃ p, codesAB c ud n ic = .error ⟨.bufferTooShort, p⟩ := by
  have hb := c.fieldBits_range
  induction n generalizing ic with
  | zero => simp at h
  | succ n ih =>
    have e : abCodeBits c * (n + 1) = abCodeBits c * n + abCodeBits c := by ring
    have e2 : abCodeBits c = c.abSignBits + c.abMagBits := rfl
    rw [codesAB]
    by_cases g : ic + c.abSignBits ≤ 8 * bufLen ud
    · rw [readBits_ok (by omega) (by omega) g]
      simp only
      by_cases g2 : ic + c.abSignBits + c.abMagBits ≤ 8 * bufLen ud
      · rw [readBits_ok (by omega) (by omega) g2]
        simp only
        obtain ⟨p, hp⟩ := ih (ic := ic + c.abSignBits + c.abMagBits) (by
          rintro (rfl | hh)
          · simp at e h
            omega
          · omega)
        exact ⟨p, by rw [hp]⟩
      · exact ⟨_, by rw [readBits_short (by omega) (by omega) (by omega)]⟩
    · exact ⟨_, by rw [readBits_short (by omega) (by omega) (by omega)]⟩

/-- The codes fail at the first that is not whole: at its magnitude if only that is missing, else at its sign
(60_exceptions R327). -/
theorem codesAB_error {c : Config} {ud : Buffer} {n ic : Nat} {e : Raise} (h : codesAB c ud n ic = .error e) :
    ∃ q, q < n ∧ 8 * bufLen ud < ic + abCodeBits c * q + abCodeBits c ∧
      (q = 0 ∨ ic + abCodeBits c * q ≤ 8 * bufLen ud) ∧
      e = ⟨.bufferTooShort, if ic + abCodeBits c * q + c.abSignBits ≤ 8 * bufLen ud
        then ic + abCodeBits c * q + c.abSignBits else ic + abCodeBits c * q⟩ := by
  have hb := c.fieldBits_range
  have e2 : abCodeBits c = c.abSignBits + c.abMagBits := rfl
  induction n generalizing ic with
  | zero => cases h
  | succ n ih =>
    rw [codesAB] at h
    by_cases g : ic + c.abSignBits ≤ 8 * bufLen ud
    · rw [readBits_ok (by omega) (by omega) g] at h; simp only at h
      by_cases g2 : ic + c.abSignBits + c.abMagBits ≤ 8 * bufLen ud
      · rw [readBits_ok (by omega) (by omega) g2] at h; simp only at h
        split at h
        · next hr =>
          cases h
          obtain ⟨q, h1, h2, h3, h4⟩ := ih hr
          have ee : abCodeBits c * (q+1) = abCodeBits c * q + abCodeBits c := by ring
          refine ⟨q + 1, by omega, by omega, .inr ?_, ?_⟩
          · rcases h3 with rfl | h3
            · simp; omega
            · omega
          · rw [h4, ee, e2, show ic + c.abSignBits + c.abMagBits + (c.abSignBits + c.abMagBits) * q =
              ic + ((c.abSignBits + c.abMagBits) * q + (c.abSignBits + c.abMagBits)) by omega]
        · cases h
      · rw [readBits_short (by omega) (by omega) (by omega)] at h
        cases h
        exact ⟨0, by omega, by simp; omega, .inl rfl, by simp [g]⟩
    · rw [readBits_short (by omega) (by omega) (by omega)] at h
      cases h
      exact ⟨0, by omega, by simp; omega, .inl rfl, by simp [g]⟩

/-- A block of `n` samples gives `n` codes. -/
theorem samplesD_length {c : Config} {ud : Buffer} {b n ic : Nat} {ks : List Code} {ic' : Nat}
    (h : samplesD c ud b n ic = .ok (ks, ic')) : ks.length = n := by
  induction n generalizing ic ks ic' with
  | zero => cases h; rfl
  | succ n ih =>
    unfold samplesD at h
    split at h
    · cases h
    · split at h
      · cases h
      · split at h
        · cases h
        · next hx => cases h; simp [ih hx]

/-- One S-value for each code. -/
theorem reconFrom_length {c : Config} {x : DecodeCtx} {ks : List Code} {q : Nat} {vs : List SVal}
    (h : reconFrom c x ks q = .ok vs) : vs.length = ks.length := by
  induction ks generalizing q vs with
  | nil => cases h; rfl
  | cons k ks ih =>
    unfold reconFrom at h
    split at h
    · cases h
    · split at h
      · cases h
      · next hx => cases h; simp [ih hx]

/-- A reconstruction raises InvalidMagnitudeCode with position 0 and nothing else. -/
theorem reconFrom_error {c : Config} {x : DecodeCtx} {ks : List Code} {q : Nat} {e : Raise}
    (h : reconFrom c x ks q = .error e) : e = ⟨.invalidMagnitudeCode, 0⟩ := by
  induction ks generalizing q e with
  | nil => cases h
  | cons k ks ih =>
    unfold reconFrom at h
    split at h
    · next hr =>
      cases h
      unfold reconD at hr
      simp only at hr
      split_ifs at hr <;> cases hr <;> rfl
    · split at h
      · next hx => cases h; exact ih hx
      · cases h

end Sys2Proof.Machine
end

