-- ==== Sys2Proof/Laws/Memory.lean ====
section
/-! SUPPORT. The canonical form of a buffer's bytes: every operation that makes one keeps it, and reading a loaded byte
gives the byte. -/

namespace Sys2Proof.Machine

theorem memoryWfFrom_mono {a b : Nat} (hab : a ≤ b) {m : Memory} (h : memoryWfFrom b m = true) :
    memoryWfFrom a m = true := by
  cases m with
  | nil => rfl
  | cons p rest =>
    simp only [memoryWfFrom, Bool.and_eq_true, decide_eq_true_eq] at h ⊢
    exact ⟨⟨by omega, h.1.2⟩, h.2⟩

/-- The cells of a byte string are in canonical form from their first offset on. -/
theorem memoryWfFrom_cellsFrom (a : Nat) (bs : List Byte) : memoryWfFrom a (cellsFrom a bs) = true := by
  induction bs generalizing a with
  | nil => rfl
  | cons v vs ih =>
    unfold cellsFrom
    split
    · exact memoryWfFrom_mono (Nat.le_succ a) (ih (a + 1))
    · simp [memoryWfFrom, *]

theorem memory_wf_cells (bs : List Byte) : Memory.wf (cellsFrom 0 bs) = true := memoryWfFrom_cellsFrom 0 bs

/-- LOAD leaves the buffer's bytes in canonical form. -/
theorem bufferOf_wf (bs : List Byte) : Memory.wf (bufferOf bs).mem = true := memory_wf_cells bs

/-- Release leaves UD's bytes in canonical form, whatever they are. -/
theorem releasedBuffer_wf (n : Nat) : Memory.wf (releasedBuffer n).mem = true := memory_wf_cells _

/-- A buffer after reset is in canonical form. -/
theorem emptyBuffer_wf : Memory.wf Buffer.empty.mem = true := rfl

theorem readByte_cellsFrom_lt {a k : Nat} (hk : k < a) (bs : List Byte) :
    readByte (cellsFrom a bs) k = unlistedByte := by
  induction bs generalizing a with
  | nil => rfl
  | cons v vs ih =>
    unfold cellsFrom
    split
    · exact ih (by omega)
    · simp only [readByte, if_neg (show a ≠ k by omega)]
      exact ih (by omega)

/-- The byte at offset `a + j` of a string laid out from `a` is its `j`-th byte. -/
theorem readByte_cellsFrom (a j : Nat) (bs : List Byte) :
    readByte (cellsFrom a bs) (a + j) = bs.getD j unlistedByte := by
  induction bs generalizing a j with
  | nil => rfl
  | cons v vs ih =>
    unfold cellsFrom
    cases j with
    | zero =>
      split
      · next h => simp [readByte_cellsFrom_lt (Nat.lt_succ_self a), h]
      · simp [readByte]
    | succ j =>
      have e : a + (j + 1) = a + 1 + j := by omega
      split
      · simp [e, ih]
      · simp only [readByte, if_neg (show a ≠ a + (j + 1) by omega)]
        simp [e, ih]

/-- What a LOAD put at offset `j` is read there. -/
theorem readByte_bufferOf (bs : List Byte) (j : Nat) :
    readByte (bufferOf bs).mem j = bs.getD j unlistedByte := by
  have h := readByte_cellsFrom 0 j bs
  rwa [Nat.zero_add] at h

end Sys2Proof.Machine
end

