-- ==== Sys2Proof/Laws/Packet.lean ====
section
/-! SUPPORT. Header maps: what the extractor writes fits its table, and what is looked up fits its row
(10_state R46, 42_header_extractor R201, R203). -/

namespace Sys2Proof.Machine

/-- A map of zeros fits every table. -/
theorem mapFits_zeros (tab : List Field) : MapFits tab (List.replicate tab.length 0#64) := by
  induction tab with
  | nil => exact .nil
  | cons f fs ih => exact .cons (by simp) ih

/-- What the extractor reads fits the table it reads by. -/
theorem extractFields_fits {c : Config} {buf : Buffer} {tab : List Field} {off : Nat} {vals : List (BitVec 64)}
    (h : extractFields c buf tab off = .ok vals) : MapFits tab vals := by
  induction tab generalizing off vals with
  | nil => cases h; exact .nil
  | cons f fs ih =>
    simp only [extractFields] at h
    split at h
    · cases h
    · next v hv =>
      split at h
      · cases h
      · next vs hvs =>
        cases h
        refine .cons ?_ (ih hvs)
        simp only [BitVec.toNat_ofNat]
        exact lt_of_le_of_lt (Nat.mod_le _ _) (readBits_lt hv)

/-- A field looked up by name fits the width of its row. -/
theorem lookupField_lt {tab : List Field} {vals : List (BitVec 64)} (h : MapFits tab vals) {name : FieldName}
    (hn : hasField tab name = true) : (lookupField tab vals name).toNat < 2 ^ fieldWidth tab name := by
  unfold MapFits at h
  induction h with
  | nil => simp [hasField] at hn
  | @cons f v fs vs hfv _ ih =>
    simp only [lookupField]
    by_cases hf : f.name = name
    · simpa [fieldWidth, hf] using hfv
    · simp only [hasField, List.any_cons, Bool.or_eq_true, beq_iff_eq, hf, false_or] at hn
      simpa [fieldWidth, List.find?_cons, hf] using ih hn

end Sys2Proof.Machine
end

