-- ==== Sys2Proof/Laws/PerInstr.lean ====
section
/-! SUPPORT. What holds of each command as syntax: its word carries its opcode in OP and zeros in the reserved bits
(30_encoding R100, R101). One lemma per constructor. -/

namespace Sys2Proof.Laws.OpcodeField

/-- The OP value of a command (30_encoding R101). -/
def opcode : Instr → Nat
  | .readBits _ _ _ => 1
  | .align => 2
  | .huff _ _ => 3
  | .extract _ _ => 4
  | .construct => 5
  | .getSamples => 6

/-- OP is the command's opcode and the bits 13:0 are 0. -/
def Statement (i : Instr) : Prop :=
  (encode i).toNat / 2 ^ 27 = opcode i ∧ (encode i).toNat % 2 ^ 14 = 0

theorem packFields_statement (op : BitVec 5) (b : BitVec 2) (m : BitVec 3) (a : BitVec 1) (n : BitVec 7) :
    (packFields op b m a n).toNat / 2 ^ 27 = op.toNat ∧ (packFields op b m a n).toNat % 2 ^ 14 = 0 := by
  rw [packFields_toNat]
  have hb := b.isLt; have hm := m.isLt; have ha := a.isLt; have hn := n.isLt
  omega

theorem readBits (b : BufSel) (a : Bool) (n : BitVec 7) : Statement (.readBits b a n) := packFields_statement _ _ _ _ _

theorem align : Statement .align := packFields_statement _ _ _ _ _

theorem huff (b : BufSel) (m : BitVec 3) : Statement (.huff b m) := packFields_statement _ _ _ _ _

theorem extract (b : BufSel) (t : BitVec 3) : Statement (.extract b t) := packFields_statement _ _ _ _ _

theorem construct : Statement .construct := packFields_statement _ _ _ _ _

theorem getSamples : Statement .getSamples := packFields_statement _ _ _ _ _

end Sys2Proof.Laws.OpcodeField
end

