-- ==== Sys2Proof/Laws/Steps.lean ====
section
/-! SUPPORT. Everything a command and a step can do, said once: a proof about every command or every step takes these cases
and unfolds neither `exec` nor `step`. -/

namespace Sys2Proof.Machine

/-- The effect of a command that ends without error: `u` is the state it computed from `s`, before completion. -/
def Effect (i : Instr) (s u : State) : Prop :=
  match i with
  | .readBits b a n =>
    ∃ v, readBits s.cfg (selBuf s b) s.cur.toNat n.toNat = .ok v ∧
      u = if a then setCur (setRes s v) (s.cur.toNat + n.toNat) else setRes s v
  | .align => alignUp s.cfg.wordUnit s.cur.toNat < 2 ^ 32 ∧ u = setCur s (alignUp s.cfg.wordUnit s.cur.toNat)
  | .huff b m =>
    ∃ sym l, huffDecode s.cfg (selBuf s b) m.toNat s.cur.toNat = .ok (sym, l) ∧
      u = setCur (setHuff s sym l) (s.cur.toNat + l)
  | .extract b m =>
    m.toNat ≤ 1 ∧ ∃ vals, extractFields s.cfg (selBuf s b) (selTable s.cfg (m.toNat == 1)) 0 = .ok vals ∧
      u = setMap s (m.toNat == 1) vals
  | .construct =>
    (s.status.map0Valid = true ∧ s.status.map1Valid = true) ∧
      ∃ f, classify (mapBaqMode s) (mapTestMode s) = some f ∧
        u = setPacket s (mapBaqMode s) (mapTestMode s) f (mapQuads s)
  | .getSamples =>
    s.status.pktValid = true ∧
      ((s.status.cacheValid = true ∧ u = s) ∨
       (s.status.cacheValid = false ∧ (s.fmt = .a ∨ s.fmt = .b) ∧
         ∃ out ic, decodeAB s.cfg s.ud s.nq.toNat = .ok (out, ic) ∧ u = cacheSamples s out) ∨
       (s.status.cacheValid = false ∧ s.fmt = .d ∧
         ∃ out brc thidx, decodeD s.cfg s.ud s.nq.toNat s.nb.toNat = .ok (out, brc, thidx) ∧
           u = cacheSamples (setSide s brc thidx) out))

/-- A command either ends with its effect or records an error on the state it started from, whose BRC and THIDX are
unspecified after a failed Type D decode. -/
theorem exec_cases {i : Instr} {s t : State} (h : exec i s = .next t) :
    (∃ u, Effect i s u ∧ t = completeOk u) ∨
    (∃ e, t = completeRaise s e ∧ ¬ (i = .getSamples ∧ decodesTypeD s = true)) ∨
    (∃ e, t = completeRaise (scrambleSide s) e ∧ i = .getSamples ∧ decodesTypeD s = true) := by
  cases i with
  | readBits b a n =>
    simp only [exec_readBits, readBitsResult] at h
    split at h
    · exact .inr (.inl ⟨_, by cases h; rfl, by simp⟩)
    · next v hv => exact .inl ⟨_, ⟨v, hv, rfl⟩, by cases h; rfl⟩
  | align =>
    simp only [exec_align, alignResult] at h
    split_ifs at h with hc
    · exact .inr (.inl ⟨_, by cases h; rfl, by simp⟩)
    · exact .inl ⟨_, ⟨by omega, rfl⟩, by cases h; rfl⟩
  | huff b m =>
    simp only [exec_huff, huffResult] at h
    split at h
    · exact .inr (.inl ⟨_, by cases h; rfl, by simp⟩)
    · next sym l hv => exact .inl ⟨_, ⟨sym, l, hv, rfl⟩, by cases h; rfl⟩
  | extract b m =>
    simp only [exec, execExtract] at h
    split_ifs at h with hm
    · exact .inr (.inl ⟨_, by cases h; rfl, by simp⟩)
    · simp only [extractResult] at h
      split at h
      · exact .inr (.inl ⟨_, by cases h; rfl, by simp⟩)
      · next vals hv => exact .inl ⟨_, ⟨by omega, vals, hv, rfl⟩, by cases h; rfl⟩
  | construct =>
    simp only [exec_construct, constructResult] at h
    split_ifs at h with h1 h2
    · exact .inr (.inl ⟨_, by cases h; rfl, by simp⟩)
    · split at h
      · exact .inr (.inl ⟨_, by cases h; rfl, by simp⟩)
      · next f hf => exact .inl ⟨_, ⟨h1, f, hf, rfl⟩, by cases h; rfl⟩
    · exact .inr (.inl ⟨_, by cases h; rfl, by simp⟩)
  | getSamples =>
    simp only [exec, execGetSamples] at h
    split at h
    · next u hu =>
      refine .inl ⟨u, ?_, by cases h; rfl⟩
      simp only [getSamplesResult] at hu
      split_ifs at hu with h1 h2
      · exact ⟨by simpa using h1, .inl ⟨h2, by cases hu; rfl⟩⟩
      · refine ⟨by simpa using h1, ?_⟩
        have hc : s.status.cacheValid = false := by simpa using h2
        cases hf : s.fmt <;> simp only [decodePacket, hf] at hu
        case c => cases hu
        case d =>
          split at hu
          · cases hu
          · next o b t ho => exact .inr (.inr ⟨hc, rfl, o, b, t, ho, by cases hu; rfl⟩)
        all_goals
          split at hu
          · cases hu
          · next o ic ho => exact .inr (.inl ⟨hc, by simp, o, ic, ho, by cases hu; rfl⟩)
    · next e he =>
      cases hd : decodesTypeD s with
      | false => exact .inr (.inl ⟨e, by cases h; simp [afterFailedSamples, hd], by simp⟩)
      | true => exact .inr (.inr ⟨e, by cases h; simp [afterFailedSamples, hd], by simp⟩)

/-- Every command answers a next state. -/
theorem exec_next (i : Instr) (s : State) : ∃ t, exec i s = .next t := by
  cases i with
  | readBits b a n => exact ⟨_, rfl⟩
  | align => exact ⟨_, rfl⟩
  | huff b m => exact ⟨_, rfl⟩
  | extract b m =>
    simp only [exec, execExtract]
    split_ifs
    · exact ⟨_, rfl⟩
    · exact ⟨_, rfl⟩
  | construct => exact ⟨_, rfl⟩
  | getSamples =>
    simp only [exec, execGetSamples]
    split
    · exact ⟨_, rfl⟩
    · exact ⟨_, rfl⟩

/-- What a step that answers a next state did: nothing, a transaction of the host, or a command. -/
inductive StepCase (s t : State) : Prop where
  | idle (hp : s.pending = []) (ht : t = s)
  | reset {rest : List Transaction} (hp : s.pending = .reset :: rest) (ht : t = resetCore (takeNext s rest))
  | load {rest : List Transaction} {b : BufSel} {bytes : List Byte} (hp : s.pending = .load b bytes :: rest)
      (hb : s.status.busy = false) (hc : bytes.length ≤ capacity s.cfg b)
      (ht : t = loadBuffer (takeNext s rest) b bytes)
  | command {rest : List Transaction} {v : Word} {i : Instr} (hp : s.pending = .wr 0#6 v :: rest)
      (hb : s.status.busy = false) (hd : decode v = .ok i) (ht : exec i (startCommand (takeNext s rest)) = .next t)
  | illegal {rest : List Transaction} {v : Word} {e : DecodeError} (hp : s.pending = .wr 0#6 v :: rest)
      (hb : s.status.busy = false) (hd : decode v = .rejected e)
      (ht : t = completeRaise (startCommand (takeNext s rest)) ⟨.illegalCommand, v.toNat⟩)
  | clear {rest : List Transaction} {v : Word} (hp : s.pending = .wr 1#6 v :: rest) (hb : s.status.busy = false)
      (hv : v.getLsbD 1 = true) (ht : t = clearErr (takeNext s rest))
  | cursor {rest : List Transaction} {v : Word} (hp : s.pending = .wr 2#6 v :: rest) (hb : s.status.busy = false)
      (ht : t = { takeNext s rest with cur := v })
  | ignored {rest : List Transaction} {r : BitVec 6} {v : Word} (hp : s.pending = .wr r v :: rest)
      (hr : r ≠ 0#6) (ht : t = takeNext s rest)
  | read {rest : List Transaction} {tr : Transaction} {x : Reply} (hp : s.pending = tr :: rest)
      (hr : tr ≠ .reset) (hl : ∀ b bytes, tr ≠ .load b bytes) (hw : ∀ r v, tr ≠ .wr r v)
      (ht : t = giveReply (takeNext s rest) x)

/-- Every step is one of the cases of `StepCase`. -/
theorem step_cases {s t : State} (h : step s = .next t) : StepCase s t := by
  simp only [step, hostStep] at h
  cases hp : s.pending with
  | nil =>
    simp only [hp] at h
    exact .idle hp (by cases h; rfl)
  | cons tr rest =>
    simp only [hp] at h
    cases tr with
    | reset => exact .reset hp (by cases h; rfl)
    | load b bytes =>
      simp only [transact] at h
      split_ifs at h with h1 h2
      exact .load hp (by simpa using h1) (by simpa using h2) (by cases h; rfl)
    | wr r v =>
      simp only [transact] at h
      split_ifs at h with h1
      have hb : s.status.busy = false := by simpa using h1
      simp only [writeRegister] at h
      split_ifs at h with h2 h3 h4 h5
      · subst h2
        simp only [writeCommand] at h
        cases hd : decode v with
        | ok i => simp only [hd] at h; exact .command hp hb hd h
        | rejected e => simp only [hd] at h; exact .illegal hp hb hd (by cases h; rfl)
      · subst h3; exact .clear hp hb h4 (by cases h; rfl)
      · exact .ignored hp h2 (by cases h; rfl)
      · subst h5; exact .cursor hp hb (by cases h; rfl)
      · exact .ignored hp h2 (by cases h; rfl)
    | rd r => exact .read hp (by simp) (by simp) (by simp) (by cases h; rfl)
    | rdMap secondary i =>
      simp only [transact] at h
      split_ifs at h
      exact .read hp (by simp) (by simp) (by simp) (by cases h; rfl)
    | rdOut k =>
      simp only [transact] at h
      split_ifs at h
      exact .read hp (by simp) (by simp) (by simp) (by cases h; rfl)
    | rdSide b =>
      simp only [transact] at h
      split_ifs at h
      exact .read hp (by simp) (by simp) (by simp) (by cases h; rfl)

end Sys2Proof.Machine
end

