-- ==== Sys2Proof/Laws/TypeD.lean ====
section
/-! SUPPORT. What a Type D component can do, quad by quad: a decode of its blocks is a trace of contexts, one step a quad, and each
step says what it read or where it failed. -/

namespace Sys2Proof.Machine

/-- The side information before quad `q`, read where the quad is the first of its block (44_type_d_path R262, R263). -/
def quadSide (c : Config) (ud : Buffer) (k : Component) (q : Nat) (x : DecodeCtx) : Except Raise DecodeCtx :=
  if q % c.blockQ = 0 then blockHeader c ud k x else .ok x

/-- Quad `q` of a component: its side information, its sign bit and its Huffman code (44_type_d_path R264). -/
def quadStep (c : Config) (ud : Buffer) (k : Component) (q : Nat) (x : DecodeCtx) : Except Raise (Code × DecodeCtx) :=
  match quadSide c ud k q x with
  | .error e => .error e
  | .ok y =>
    match readBits c ud y.ic 1 with
    | .error e => .error e
    | .ok sg =>
      match huffDecode c ud (brcAt y.brc (q / c.blockQ)).toNat (y.ic + 1) with
      | .error e => .error e
      | .ok (sym, len) => .ok (⟨sg == 1, sym.toNat⟩, { y with ic := y.ic + 1 + len })

/-- `n` quads from quad `q` on. -/
def quadSteps (c : Config) (ud : Buffer) (k : Component) : (n q : Nat) → (x : DecodeCtx) → Except Raise (List Code × DecodeCtx)
  | 0, _, x => .ok ([], x)
  | n + 1, q, x =>
    match quadStep c ud k q x with
    | .error e => .error e
    | .ok (a, y) =>
      match quadSteps c ud k n (q + 1) y with
      | .error e => .error e
      | .ok (ks, z) => .ok (a :: ks, z)

/-- Quads in two runs. -/
theorem quadSteps_append (c : Config) (ud : Buffer) (k : Component) (m n q : Nat) (x : DecodeCtx) :
    quadSteps c ud k (m + n) q x =
      match quadSteps c ud k m q x with
      | .error e => .error e
      | .ok (ks, y) =>
        match quadSteps c ud k n (q + m) y with
        | .error e => .error e
        | .ok (ks', z) => .ok (ks ++ ks', z) := by
  induction m generalizing q x with
  | zero =>
    simp only [quadSteps, Nat.zero_add, Nat.add_zero]
    cases quadSteps c ud k n q x with
    | error e => rfl
    | ok r => rfl
  | succ m ih =>
    rw [show m + 1 + n = (m + n) + 1 by omega]
    simp only [quadSteps]
    cases quadStep c ud k q x with
    | error e => rfl
    | ok r =>
      obtain ⟨a, y⟩ := r
      simp only
      rw [ih, show q + 1 + m = q + (m + 1) by omega]
      cases quadSteps c ud k m (q + 1) y with
      | error e => rfl
      | ok r =>
        obtain ⟨ks, z⟩ := r
        simp only
        cases quadSteps c ud k n (q + (m + 1)) z with
        | error e => rfl
        | ok r => rfl

/-- Quads that start no block are the samples of their block. -/
theorem quadSteps_inner (c : Config) (ud : Buffer) (k : Component) (b n q : Nat) (x : DecodeCtx)
    (h : ∀ i, i < n → (q + i) % c.blockQ ≠ 0 ∧ (q + i) / c.blockQ = b) :
    quadSteps c ud k n q x =
      match samplesD c ud (brcAt x.brc b).toNat n x.ic with
      | .error e => .error e
      | .ok (ks, ic) => .ok (ks, { x with ic := ic }) := by
  induction n generalizing q x with
  | zero => rfl
  | succ n ih =>
    have h0 := h 0 (by omega)
    rw [Nat.add_zero] at h0
    simp only [quadSteps, quadStep, quadSide, if_neg h0.1, h0.2, samplesD]
    cases readBits c ud x.ic 1 with
    | error e => rfl
    | ok sg =>
      simp only
      cases huffDecode c ud (brcAt x.brc b).toNat (x.ic + 1) with
      | error e => rfl
      | ok r =>
        obtain ⟨sym, len⟩ := r
        simp only
        rw [ih (q + 1) _ (fun i hi => by have := h (i + 1) (by omega); rwa [show q + (i + 1) = q + 1 + i by omega] at this)]
        simp only
        cases samplesD c ud (brcAt x.brc b).toNat n (x.ic + 1 + len) with
        | error e => rfl
        | ok r => rfl

/-- A run that starts a block is its side information and its samples. -/
theorem quadSteps_block (c : Config) (ud : Buffer) (k : Component) (b n : Nat) (x : DecodeCtx) (hn : 1 ≤ n) (hq : n ≤ c.blockQ) :
    quadSteps c ud k n (c.blockQ * b) x =
      match blockHeader c ud k x with
      | .error e => .error e
      | .ok y =>
        match samplesD c ud (brcAt y.brc b).toNat n y.ic with
        | .error e => .error e
        | .ok (ks, ic) => .ok (ks, { y with ic := ic }) := by
  have hp := c.blockQ_pos
  obtain ⟨n, rfl⟩ : ∃ m, n = m + 1 := ⟨n - 1, by omega⟩
  simp only [quadSteps, quadStep, quadSide, Nat.mul_mod_right, if_true, Nat.mul_div_cancel_left b (show 0 < c.blockQ by omega), samplesD]
  cases blockHeader c ud k x with
  | error e => rfl
  | ok y =>
    simp only
    cases readBits c ud y.ic 1 with
    | error e => rfl
    | ok sg =>
      simp only
      cases huffDecode c ud (brcAt y.brc b).toNat (y.ic + 1) with
      | error e => rfl
      | ok r =>
        obtain ⟨sym, len⟩ := r
        simp only
        rw [quadSteps_inner c ud k b]
        · simp only
          cases samplesD c ud (brcAt y.brc b).toNat n (y.ic + 1 + len) with
          | error e => rfl
          | ok r => rfl
        · intro i hi
          rw [Nat.add_assoc, Nat.mul_add_mod, Nat.mul_add_div (by omega), Nat.mod_eq_of_lt (by omega), Nat.div_eq_of_lt (by omega)]
          omega

/-- The blocks of a component from block `b` on are its quads from the first of that block on. -/
theorem blocksD_quadSteps (c : Config) (ud : Buffer) (k : Component) (nq left b : Nat) (x : DecodeCtx)
    (h : b + left = ceilDiv nq c.blockQ) :
    blocksD c ud k nq (ceilDiv nq c.blockQ) left b x = quadSteps c ud k (nq - c.blockQ * b) (c.blockQ * b) x := by
  have hp := c.blockQ_pos
  rcases Nat.eq_zero_or_pos nq with h0 | h0
  · subst h0
    rw [ceilDiv_zero hp] at h
    have : left = 0 := by omega
    subst this; simp [blocksD, quadSteps]
  obtain ⟨n, hn, h1, h2⟩ := ceilDiv_pos hp h0
  rw [hn] at h ⊢
  induction left generalizing b x with
  | zero =>
    have : b = n + 1 := by omega
    subst this
    rw [show nq - c.blockQ * (n + 1) = 0 by rw [Nat.mul_add]; omega]; rfl
  | succ left ih =>
    have hb : b ≤ n := by omega
    have hl : 1 ≤ blockLen c b nq (n + 1) ∧ blockLen c b nq (n + 1) ≤ c.blockQ ∧
        nq - c.blockQ * b = blockLen c b nq (n + 1) + (nq - c.blockQ * (b + 1)) ∧
        (blockLen c b nq (n + 1) = c.blockQ ∨ nq - c.blockQ * (b + 1) = 0) := by
      unfold blockLen
      have e : c.blockQ * (b + 1) = c.blockQ * b + c.blockQ := by ring
      split_ifs with hlt
      · have : c.blockQ * (b + 1) ≤ c.blockQ * n := Nat.mul_le_mul_left _ (by omega)
        omega
      · have : b = n := by omega
        subst this
        simp only [Nat.add_sub_cancel]
        omega
    rw [hl.2.2.1, quadSteps_append, quadSteps_block c ud k b _ x hl.1 hl.2.1]
    simp only [blocksD]
    cases blockHeader c ud k x with
    | error e => rfl
    | ok y =>
      simp only
      cases samplesD c ud (brcAt y.brc b).toNat (blockLen c b nq (n + 1)) y.ic with
      | error e => rfl
      | ok r =>
        obtain ⟨ks, ic⟩ := r
        simp only
        rw [ih (b + 1) _ (by omega)]
        rcases hl.2.2.2 with he | he
        · rw [he, show c.blockQ * b + c.blockQ = c.blockQ * (b + 1) by ring] <;> rfl
        · rw [he]; rfl

/-- `X i` is the context before quad `i` of a component, and `K i` its code, for the first `n` quads. -/
def QuadTrace (c : Config) (ud : Buffer) (k : Component) (n : Nat) (X : Nat → DecodeCtx) (K : Nat → Code) : Prop :=
  ∀ i, i < n → quadStep c ud k i (X i) = .ok (K i, X (i + 1))

/-- A run of quads succeeds exactly when there is a trace of contexts through it. -/
theorem quadSteps_ok (c : Config) (ud : Buffer) (k : Component) (n q : Nat) (x y : DecodeCtx) (ks : List Code) :
    quadSteps c ud k n q x = .ok (ks, y) ↔ ∃ (X : Nat → DecodeCtx) (K : Nat → Code), X 0 = x ∧ X n = y ∧ ks = (List.range n).map K ∧
      ∀ i, i < n → quadStep c ud k (q + i) (X i) = .ok (K i, X (i + 1)) := by
  induction n generalizing q x ks with
  | zero =>
    simp only [quadSteps]
    constructor
    · intro h; cases h; exact ⟨fun _ => y, fun _ => ⟨false, 0⟩, rfl, rfl, rfl, fun i hi => by omega⟩
    · rintro ⟨X, K, rfl, rfl, rfl, -⟩; rfl
  | succ n ih =>
    simp only [quadSteps]
    constructor
    · intro h
      split at h; · cases h
      next a z hz =>
      split at h; · cases h
      next ks' z' hr =>
      cases h
      obtain ⟨X, K, h0, h1, h2, h3⟩ := (ih _ _ _).mp hr
      refine ⟨fun i => if i = 0 then x else X (i - 1), fun i => if i = 0 then a else K (i - 1), rfl, by simpa using h1, ?_, ?_⟩
      · rw [List.range_succ_eq_map, List.map_cons, List.map_map, h2]; simp [Function.comp_def]
      · intro i hi
        cases i with
        | zero => simp [hz, h0]
        | succ i =>
          have := h3 i (by omega)
          rw [show q + 1 + i = q + (i + 1) by omega] at this
          simpa using this
    · rintro ⟨X, K, rfl, rfl, rfl, h⟩
      have h0 := h 0 (by omega)
      rw [Nat.add_zero] at h0
      rw [h0]
      have := (ih (q + 1) (X 1) ((List.range n).map fun i => K (i + 1))).mpr ⟨fun i => X (i + 1), fun i => K (i + 1), rfl, rfl, rfl, fun i hi => by
        have := h (i + 1) (by omega); rwa [show q + (i + 1) = q + 1 + i by omega] at this⟩
      simp only [Nat.zero_add, this]
      rw [List.range_succ_eq_map, List.map_cons, List.map_map]; rfl

/-- A run of quads fails at a quad, with a trace up to it. -/
theorem quadSteps_error (c : Config) (ud : Buffer) (k : Component) (n q : Nat) (x : DecodeCtx) (e : Raise)
    (h : quadSteps c ud k n q x = .error e) : ∃ m, m < n ∧ ∃ (X : Nat → DecodeCtx) (K : Nat → Code), X 0 = x ∧
      (∀ i, i < m → quadStep c ud k (q + i) (X i) = .ok (K i, X (i + 1))) ∧ quadStep c ud k (q + m) (X m) = .error e := by
  induction n generalizing q x with
  | zero => cases h
  | succ n ih =>
    simp only [quadSteps] at h
    split at h
    · next hz => cases h; exact ⟨0, by omega, fun _ => x, fun _ => ⟨false, 0⟩, rfl, fun i hi => by omega, hz⟩
    · next a z hz =>
      split at h
      · next hr =>
        cases h
        obtain ⟨m, hm, X, K, h0, h1, h2⟩ := ih _ _ hr
        refine ⟨m + 1, by omega, fun i => if i = 0 then x else X (i - 1), fun i => if i = 0 then a else K (i - 1), rfl, ?_, ?_⟩
        · intro i hi
          cases i with
          | zero => simp [hz, h0]
          | succ i =>
            have := h1 i (by omega)
            rw [show q + 1 + i = q + (i + 1) by omega] at this
            simpa using this
        · rw [show q + 1 + m = q + (m + 1) by omega] at h2
          simpa using h2
      · cases h

/-- A component decodes exactly when there is a trace of its quads; the cursor then goes to the next word boundary. -/
theorem componentD_ok (c : Config) (ud : Buffer) (k : Component) (nq : Nat) (x y : DecodeCtx) (ks : List Code) :
    componentD c ud k nq (ceilDiv nq c.blockQ) x = .ok (ks, y) ↔ ∃ (X : Nat → DecodeCtx) (K : Nat → Code), X 0 = x ∧
      y = { X nq with ic := alignUp c.wordUnit (X nq).ic } ∧ ks = (List.range nq).map K ∧ QuadTrace c ud k nq X K := by
  unfold componentD
  rw [blocksD_quadSteps c ud k nq _ 0 x (by omega)]
  simp only [Nat.mul_zero, Nat.sub_zero]
  constructor
  · intro h
    split at h; · cases h
    next hq =>
    cases h
    obtain ⟨X, K, h0, h1, h2, h3⟩ := (quadSteps_ok ..).mp hq
    exact ⟨X, K, h0, by rw [h1], h2, fun i hi => by have := h3 i hi; rwa [Nat.zero_add] at this⟩
  · rintro ⟨X, K, h0, rfl, h2, h3⟩
    rw [(quadSteps_ok ..).mpr ⟨X, K, h0, rfl, h2, fun i hi => by rw [Nat.zero_add]; exact h3 i hi⟩]

/-- A component fails at a quad, with a trace up to it. -/
theorem componentD_error (c : Config) (ud : Buffer) (k : Component) (nq : Nat) (x : DecodeCtx) (e : Raise)
    (h : componentD c ud k nq (ceilDiv nq c.blockQ) x = .error e) : ∃ m, m < nq ∧ ∃ (X : Nat → DecodeCtx) (K : Nat → Code), X 0 = x ∧
      QuadTrace c ud k m X K ∧ quadStep c ud k m (X m) = .error e := by
  unfold componentD at h
  rw [blocksD_quadSteps c ud k nq _ 0 x (by omega)] at h
  simp only [Nat.mul_zero, Nat.sub_zero] at h
  split at h
  · next hq =>
    cases h
    obtain ⟨m, hm, X, K, h0, h1, h2⟩ := quadSteps_error c ud k _ _ _ _ hq
    exact ⟨m, hm, X, K, h0, fun i hi => by have := h1 i hi; rwa [Nat.zero_add] at this, by rwa [Nat.zero_add] at h2⟩
  · cases h

/-- The bits of side information before quad `q`. -/
def sideOffset (c : Config) (k : Component) (q : Nat) : Nat := if q % c.blockQ = 0 then sideBits c k else 0

/-- The BRC read before quad `q` from cursor `ic`, if any. -/
def readBrc (c : Config) (ud : Buffer) (k : Component) (q ic : Nat) : List (BitVec 3) :=
  if q % c.blockQ = 0 ∧ k = .ie then [BitVec.ofNat 3 (bitsValue ud ic c.brcBits)] else []
/-- The threshold index read before quad `q` from cursor `ic`, if any. -/
def readThidx (c : Config) (ud : Buffer) (k : Component) (q ic : Nat) : List (BitVec 8) :=
  if q % c.blockQ = 0 ∧ k = .qe then [BitVec.ofNat 8 (bitsValue ud ic c.thidxBits)] else []

/-- The context after the side information of quad `q`. -/
def afterSide (c : Config) (ud : Buffer) (k : Component) (q : Nat) (x : DecodeCtx) : DecodeCtx :=
  ⟨x.ic + sideOffset c k q, x.brc ++ readBrc c ud k q x.ic, x.thidx ++ readThidx c ud k q x.ic⟩

/-- The side information of quad `q` is there, and its BRC is legal. -/
def SideFits (c : Config) (ud : Buffer) (k : Component) (q ic : Nat) : Prop :=
  q % c.blockQ = 0 → (k = .ie → ic + c.brcBits ≤ 8 * bufLen ud ∧ bitsValue ud ic c.brcBits ≤ c.brcMax) ∧
    (k = .qe → ic + c.thidxBits ≤ 8 * bufLen ud)

/-- What the side information of a quad leaves, and when it can be read. -/
theorem quadSide_ok (c : Config) (ud : Buffer) (k : Component) (q : Nat) (x y : DecodeCtx) :
    quadSide c ud k q x = .ok y ↔ SideFits c ud k q x.ic ∧ y = afterSide c ud k q x := by
  have hf := c.fieldBits_range
  unfold quadSide SideFits afterSide readBrc readThidx sideOffset
  by_cases h : q % c.blockQ = 0
  · simp only [h, if_true, true_and, true_imp_iff]
    cases k <;> simp only [blockHeader, sideBits, reduceCtorEq, if_true, if_false, false_imp_iff, true_imp_iff, and_true, true_and,
      List.append_nil, Nat.add_zero]
    · by_cases g : x.ic + c.brcBits ≤ 8 * bufLen ud
      · rw [readBits_ok (by omega) (by omega) g]
        by_cases g2 : c.brcMax < bitsValue ud x.ic c.brcBits
        · simp [g2]
        · simp only [g2, if_false, Except.ok.injEq, g, true_and, Nat.le_of_not_lt g2]
          exact eq_comm
      · rw [readBits_short (by omega) (by omega) (by omega)]
        simp [g]
    · simp only [Except.ok.injEq]; exact eq_comm
    · by_cases g : x.ic + c.thidxBits ≤ 8 * bufLen ud
      · rw [readBits_ok (by omega) (by omega) g]
        simp only [Except.ok.injEq, g, true_and]; exact eq_comm
      · rw [readBits_short (by omega) (by omega) (by omega)]
        simp [g]
    · simp only [Except.ok.injEq]; exact eq_comm
  · simp [h]; exact eq_comm

/-- A field of one bit. -/
theorem bitsValue_one (ud : Buffer) (s : Nat) : (bitsValue ud s 1 == 1) = bufBit ud s := by
  simp [bitsValue]

/-- What a quad gives, and when it can be read. -/
theorem quadStep_ok (c : Config) (ud : Buffer) (k : Component) (q : Nat) (x z : DecodeCtx) (a : Code) :
    quadStep c ud k q x = .ok (a, z) ↔ SideFits c ud k q x.ic ∧ x.ic + sideOffset c k q + 1 ≤ 8 * bufLen ud ∧ ∃ sym len,
      huffDecode c ud (brcAt (afterSide c ud k q x).brc (q / c.blockQ)).toNat (x.ic + sideOffset c k q + 1) = .ok (sym, len) ∧
      a = ⟨bufBit ud (x.ic + sideOffset c k q), sym.toNat⟩ ∧
      z = { afterSide c ud k q x with ic := x.ic + sideOffset c k q + 1 + len } := by
  unfold quadStep
  have hs := quadSide_ok c ud k q x
  cases h : quadSide c ud k q x with
  | error e =>
    simp only [reduceCtorEq, false_iff]
    rintro ⟨hg, -⟩
    rw [(hs _).mpr ⟨hg, rfl⟩] at h; cases h
  | ok y =>
    obtain ⟨hg, rfl⟩ := (hs _).mp h
    simp only [hg, true_and]
    rw [show (afterSide c ud k q x).ic = x.ic + sideOffset c k q from rfl]
    by_cases g : x.ic + sideOffset c k q + 1 ≤ 8 * bufLen ud
    · rw [readBits_ok (by omega) (by omega) g]
      simp only [g, true_and]
      cases huffDecode c ud (brcAt (afterSide c ud k q x).brc (q / c.blockQ)).toNat (x.ic + sideOffset c k q + 1) with
      | error e => simp
      | ok r =>
        obtain ⟨sym, len⟩ := r
        simp only [bitsValue_one, Except.ok.injEq, Prod.mk.injEq]
        constructor
        · rintro ⟨rfl, rfl⟩; exact ⟨sym, len, ⟨rfl, rfl⟩, rfl, rfl⟩
        · rintro ⟨_, _, ⟨rfl, rfl⟩, rfl, rfl⟩; exact ⟨rfl, rfl⟩
    · rw [readBits_short (by omega) (by omega) (by omega)]
      simp [g]

/-- Where reading a quad fails, and with which error (60_exceptions R327). -/
theorem quadStep_error (c : Config) (ud : Buffer) (k : Component) (q : Nat) (x : DecodeCtx) (e : Raise)
    (h : quadStep c ud k q x = .error e) :
    (q % c.blockQ = 0 ∧ 8 * bufLen ud < x.ic + sideBits c k ∧ 1 ≤ sideBits c k ∧ e = ⟨.bufferTooShort, x.ic⟩) ∨
    (q % c.blockQ = 0 ∧ k = .ie ∧ x.ic + c.brcBits ≤ 8 * bufLen ud ∧ c.brcMax < bitsValue ud x.ic c.brcBits ∧ e = ⟨.invalidBrc, x.ic⟩) ∨
    (SideFits c ud k q x.ic ∧ 8 * bufLen ud < x.ic + sideOffset c k q + 1 ∧ e = ⟨.bufferTooShort, x.ic + sideOffset c k q⟩) ∨
    (SideFits c ud k q x.ic ∧ x.ic + sideOffset c k q + 1 ≤ 8 * bufLen ud ∧ e.pos = x.ic + sideOffset c k q + 1 ∧
      huffDecode c ud (brcAt (afterSide c ud k q x).brc (q / c.blockQ)).toNat (x.ic + sideOffset c k q + 1) = .error e) := by
  have hf := c.fieldBits_range
  unfold quadStep at h
  split at h
  · next e' hs =>
    cases h
    unfold quadSide at hs
    split_ifs at hs with hq
    cases k <;> simp only [blockHeader] at hs
    · split at hs
      · next hr =>
        cases hs
        rcases readBits_error_iff.mp hr with ⟨g, -⟩ | ⟨-, g, rfl⟩
        · omega
        · exact .inl ⟨hq, g, hf.1.1.1, rfl⟩
      · next v hv =>
        obtain ⟨-, g, rfl⟩ := readBits_ok_iff.mp hv
        split_ifs at hs with g2
        cases hs
        exact .inr (.inl ⟨hq, rfl, g, g2, rfl⟩)
    · cases hs
    · split at hs
      · next hr =>
        cases hs
        rcases readBits_error_iff.mp hr with ⟨g, -⟩ | ⟨-, g, rfl⟩
        · omega
        · exact .inl ⟨hq, g, hf.1.2.1, rfl⟩
      · cases hs
    · cases hs
  · next y hy =>
    obtain ⟨hg, rfl⟩ := (quadSide_ok ..).mp hy
    rw [show (afterSide c ud k q x).ic = x.ic + sideOffset c k q from rfl] at h
    by_cases g : x.ic + sideOffset c k q + 1 ≤ 8 * bufLen ud
    · rw [readBits_ok (by omega) (by omega) g] at h
      simp only at h
      split at h
      · next hh => cases h; exact .inr (.inr (.inr ⟨hg, g, (huffDecode_error hh).1, hh⟩))
      · cases h
    · rw [readBits_short (by omega) (by omega) (by omega)] at h
      cases h
      exact .inr (.inr (.inl ⟨hg, by omega, rfl⟩))

end Sys2Proof.Machine
end

