-- ==== Sys2Proof/Tests/Slice0.lean ====
section
/-! SUPPORT. Tests. Every expected value is one of spec/95_test_vectors.md or of a rule's own example, named in the comment
above it. TCFG is the synthetic test configuration of 95_test_vectors section 0; it is no real table. -/

set_option Elab.async false -- one kernel evaluation at a time: each thread takes its stack from the memory limit

namespace Sys2Proof.Tests

open Sys2Proof.Machine

/-! ## The test configuration TCFG (95_test_vectors section 0) -/

/-- The unary table of a mode with m_max = `m`: k ones and a zero are k, m ones are m. -/
def unaryTable (m : Nat) : List HuffEntry :=
  (List.range m).map (fun k => ⟨k + 1, 2 ^ (k + 1) - 2, BitVec.ofNat 8 k⟩) ++ [⟨m, 2 ^ m - 1, BitVec.ofNat 8 m⟩]

/-- The tables of a mode of TCFG; the normalised level (2m + 1)/2 is written as the value numbered 2m + 1. -/
def testMode (b m tmax start : Nat) (huff : List HuffEntry) : ModeTables :=
  { huff := huff, startLen := start, mCode := m, thidxMax := tmax,
    simple := (List.range (tmax + 1)).map fun t => SVal.int (10 * (b + 1) + t),
    normalized := (List.range (m + 1)).map fun k => SVal.other (2 * k + 1) }

def tcfgData : ConfigData :=
  { modes :=
      [testMode 0 3 3 1 (unaryTable 3), testMode 1 4 3 1 (unaryTable 4), testMode 2 6 5 1 (unaryTable 6),
       testMode 3 9 6 1 (unaryTable 9),
       testMode 4 15 8 2 ((List.range 15).map fun k => ⟨6, 16 + k, BitVec.ofNat 8 (k + 1)⟩)],
    scPlen := 2, scAdv := 2, scale := (List.range 256).map fun t => SVal.int t, negZeroDistinct := false,
    capGb := 65536, capPh := 6, capSh := 62, capUd := 65536 }

theorem test_tcfg_wf : tcfgData.wf = true := by decide +kernel

def tcfg : Config := ⟨tcfgData, test_tcfg_wf⟩

/-- The machine right after reset under TCFG. -/
def start : State := State.cleared tcfg

/-- `start` with bytes in GB and a cursor. -/
def withGb (bytes : List Byte) (cur : Word) : State := { start with gb := bufferOf bytes, cur := cur }

/-- `start` with a constructed packet: format, NQ, NB and the user data. -/
def withPacket (fmt : Format) (nq nb : Word) (bytes : List Byte) : State :=
  { start with
    status := { start.status with map0Valid := true, map1Valid := true, pktValid := true },
    baqMode := if fmt = .d then 12#8 else if fmt = .c then 3#8 else 0#8,
    fmt := fmt, nq := nq, nb := nb, ud := bufferOf bytes }

/-- The state after one step that writes `w` to CMD; the state itself where the step stops. -/
def afterWord (w : Word) (s : State) : State :=
  match step (issueWord w s) with
  | .next t => t
  | .fault _ => s
  | .refused _ => s

/-- The state after one step that performs `t`. -/
def afterStep (t : Transaction) (s : State) : State :=
  match step { s with pending := [t] } with
  | .next t => t
  | .fault _ => s
  | .refused _ => s

/-- A step that performs `t` stops with `f`. -/
def faultsWith (t : Transaction) (s : State) (f : Fault) : Bool :=
  match step { s with pending := [t] } with
  | .fault g => f == g
  | .next _ => false
  | .refused _ => false

/-- The state a command answers. -/
def ran (i : Instr) (s : State) : State :=
  match exec i s with
  | .next t => t
  | .fault _ => s
  | .refused _ => s

theorem exec_ran (i : Instr) (s : State) : exec i s = .next (ran i s) := by
  obtain ⟨t, ht⟩ := exec_next i s
  rw [ran, ht]

/-! ## Words and well-formedness -/

-- 30_encoding R114
theorem test_decode_read_bits : decode 0x0800C000#32 = .ok (.readBits .gb false 3#7) := by decide
theorem test_decode_read_bits_advance : decode 0x0820C000#32 = .ok (.readBits .gb true 3#7) := by decide
theorem test_decode_read_bits_ud : decode 0x0E100000#32 = .ok (.readBits .ud false 64#7) := by decide
theorem test_decode_align : decode 0x10000000#32 = .ok .align := by decide
theorem test_decode_huff : decode 0x18C00000#32 = .ok (.huff .gb 3#3) := by decide
theorem test_decode_huff_ud : decode 0x1F000000#32 = .ok (.huff .ud 4#3) := by decide
theorem test_decode_extract_ph : decode 0x22000000#32 = .ok (.extract .ph 0#3) := by decide
theorem test_decode_extract_sh : decode 0x24400000#32 = .ok (.extract .sh 1#3) := by decide
theorem test_decode_construct : decode 0x28000000#32 = .ok .construct := by decide
theorem test_decode_get_samples : decode 0x30000000#32 = .ok .getSamples := by decide

-- the same words bit by bit from the pattern of R100: OP, BSEL, M, A, N, 0
theorem test_word_bits_read_bits :
    decode (0b00001#5 ++ 0b00#2 ++ 0b000#3 ++ 0b1#1 ++ 0b0000101#7 ++ 0b00000000000000#14) =
      .ok (.readBits .gb true 5#7) := by decide
theorem test_word_bits_huff :
    decode (0b00011#5 ++ 0b11#2 ++ 0b111#3 ++ 0b0#1 ++ 0b0000000#7 ++ 0b00000000000000#14) =
      .ok (.huff .ud 7#3) := by decide
theorem test_word_bits_extract :
    decode (0b00100#5 ++ 0b01#2 ++ 0b001#3 ++ 0b0#1 ++ 0b0000000#7 ++ 0b00000000000000#14) =
      .ok (.extract .ph 1#3) := by decide

-- 95_test_vectors 2.1: the illegal words, one for each reason
theorem test_reject_opcode : decode 0xF8000000#32 = .rejected .illegalOpcode := by decide
theorem test_reject_opcode_zero : decode 0x00000000#32 = .rejected .illegalOpcode := by decide
theorem test_reject_reserved : decode 0x08000001#32 = .rejected .reservedBits := by decide
theorem test_reject_mode : decode 0x0840C000#32 = .rejected .modeField := by decide
theorem test_reject_advance : decode 0x18200000#32 = .rejected .advanceOrWidth := by decide
theorem test_reject_operands : decode 0x32000000#32 = .rejected .operandBits := by decide
theorem test_reject_table : decode 0x20800000#32 = .rejected .tableSelect := by decide
theorem test_table_word : decodeTableWord 32 0x08000000 = some (.readBits .gb false 0#7) := by decide

-- 42_header_extractor R205: the default tables have 8 and 46 rows, 48 and 496 bits
theorem test_default_tables :
    defaultPhTable.length = 8 ∧ defaultShTable.length = 46 ∧ tableBits defaultPhTable = 48 ∧
      tableBits defaultShTable = 496 := by decide
-- R206, R207: where packet_data_length, test_mode, baq_mode and number_of_quads stand
theorem test_default_offsets :
    tableBits (defaultPhTable.takeWhile (·.name ≠ .packetDataLength)) = 32 ∧
      tableBits (defaultShTable.takeWhile (·.name ≠ .testMode)) = 121 ∧
      tableBits (defaultShTable.takeWhile (·.name ≠ .baqMode)) = 251 ∧
      tableBits (defaultShTable.takeWhile (·.name ≠ .numberOfQuads)) = 472 := by decide +kernel

theorem test_wf_refuses_extract : Instr.wf (.extract .gb 2#3) = false := by decide

/-! ## Ill-formed configurations, one for each check (00_scope R8 to R12) -/

/-- The first error of a configuration. -/
def firstError (c : ConfigData) : Option ConfigError := c.errors.head?

/-- TCFG with a change to the tables of every mode. -/
def withModes (f : ModeTables → ModeTables) : ConfigData := { tcfgData with modes := tcfgData.modes.map f }

theorem test_config_max_width : firstError { tcfgData with maxWidth := 32 } = some .maxWidth := by decide +kernel
theorem test_config_huff_max : firstError { tcfgData with huffMaxLen := 16 } = some .huffMaxLen := by decide +kernel
theorem test_config_word_unit : firstError { tcfgData with wordUnit := 0 } = some .wordUnit := by decide +kernel
theorem test_config_block : firstError { tcfgData with blockQ := 0 } = some .blockQ := by decide +kernel
theorem test_config_brc_max : firstError { tcfgData with brcMax := 8, brcBits := 4 } = some .brcMax := by
  decide +kernel
-- 00_scope R8 bounds neither BRC_BITS nor AB_MAG_BITS
theorem test_config_widths :
    firstError { tcfgData with brcBits := 4 } = none ∧ firstError { tcfgData with abMagBits := 12 } = none := by
  constructor <;> decide +kernel
theorem test_config_field_bits : firstError { tcfgData with abSignBits := 2 } = some .fieldBits := by decide +kernel
theorem test_config_mode_count : firstError { tcfgData with brcMax := 3 } = some .modeCount := by decide +kernel
theorem test_config_start : firstError (withModes fun m => { m with startLen := 11 }) = some .startLen := by
  decide +kernel
theorem test_config_key : firstError (withModes fun m => { m with huff := [⟨2, 4, 0#8⟩] }) = some .huffKeys := by
  decide +kernel
theorem test_config_key_twice :
    firstError (withModes fun m => { m with huff := [⟨2, 3, 0#8⟩, ⟨2, 3, 1#8⟩] }) = some .huffKeys := by decide +kernel
theorem test_config_thidx :
    firstError (withModes fun m => { m with thidxMax := 256 }) = some .thidxMax := by decide +kernel
theorem test_config_simple : firstError (withModes fun m => { m with simple := [] }) = some .simpleLength := by
  decide +kernel
theorem test_config_shortcut : firstError { tcfgData with scAdv := 16 } = some .shortcut := by decide +kernel
theorem test_config_scale : firstError { tcfgData with scale := [] } = some .scaleLength := by decide +kernel
theorem test_config_width :
    firstError { tcfgData with phTable := [⟨.packetDataLength, 0⟩] } = some .fieldWidths := by decide +kernel
theorem test_config_sum :
    firstError { tcfgData with phTable := [⟨.packetDataLength, 16⟩] } = some .tableSum := by decide +kernel
theorem test_config_duplicate :
    firstError { tcfgData with phTable := [⟨.packetDataLength, 24⟩, ⟨.packetDataLength, 24⟩] } =
      some .duplicateName := by decide +kernel
theorem test_config_missing :
    firstError { tcfgData with phTable := [⟨.extra 0, 48⟩] } = some .missingName := by decide +kernel

/-- A secondary table of the given widths for baq_mode, test_mode and number_of_quads, filled up to 496 bits. -/
def shOf (bm tm nq : Nat) : List Field :=
  [⟨.baqMode, bm⟩, ⟨.testMode, tm⟩, ⟨.numberOfQuads, nq⟩] ++
    (List.range 8).map (fun k => ⟨.extra k, 50⟩) ++
    [⟨.extra 8, (96 - bm - tm - nq) / 2⟩, ⟨.extra 9, (97 - bm - tm - nq) / 2⟩]

theorem test_config_mode_field : firstError { tcfgData with shTable := shOf 9 3 16 } = some .modeFieldWidth := by
  decide +kernel
theorem test_config_quads : firstError { tcfgData with shTable := shOf 8 8 33 } = some .quadsWidth := by decide +kernel
theorem test_config_own_table : firstError { tcfgData with shTable := shOf 8 8 32 } = none := by decide +kernel
theorem test_config_capacity : firstError { tcfgData with capUd := 65473 } = some .capacity := by decide +kernel

/-! ## READ_BITS and ALIGN (95_test_vectors 2.2, 2.3, 2.10) -/

-- W1: GB = B4, READ_BITS.A GB, 3 gives RES 5, CUR 3, STATUS 0x18; and 64 bits across nine bytes from CUR 4
theorem test_read_bits :
    (let t := afterWord 0x0820C000#32 (withGb [0xB4#8] 0#32)
     t.res = 5#64 ∧ t.cur = 3#32 ∧ statusWord t.status = 0x18#32) ∧
    (let t := afterWord 0x08300000#32 (withGb [1, 2, 3, 4, 5, 6, 7, 8, 9] 4#32)
     t.res = 0x1020304050607080#64 ∧ t.cur = 68#32) := by
  constructor <;> decide +kernel
-- 9 bits from bit 16 of three bytes are too many; width 0 comes first; a second error sets MULTI_ERR and keeps the first
theorem test_read_bits_errors :
    (let t := afterWord 0x08024000#32 (withGb [0xB4#8, 0x5A#8, 0xFF#8] 16#32)
     statusWord t.status = 0x00020002#32 ∧ t.errPos = 16#32 ∧ t.cur = 16#32) ∧
    (let t := afterWord 0x08000000#32 (withGb [] 100#32)
     statusWord t.status = 0x00010002#32 ∧ t.errPos = 100#32) ∧
    (let s := withGb [0xB4#8] 16#32
     let t := afterWord 0x08000000#32
       { s with status := { s.status with err := true, errCode := 2#4, resValid := true }, errPos := 16#32 }
     statusWord t.status = 0x00020016#32 ∧ t.errPos = 16#32) := by
  refine ⟨?_, ?_, ?_⟩ <;> decide +kernel
theorem test_align : (afterWord 0x10000000#32 (withGb [] 17#32)).cur = 32#32 := by decide +kernel
theorem test_align_overflow :
    let t := afterWord 0x10000000#32 (withGb [] 0xFFFFFFF1#32)
    t.cur = 0xFFFFFFF1#32 ∧ t.errPos = 0xFFFFFFF1#32 ∧ t.status.errCode = 12#4 := by decide +kernel

/-! ## HUFF under TCFG (95_test_vectors 2.4) -/

-- GB = E0, BRC 2: prefix extension gives SYM 3, HLEN 4, STATUS 0x28; GB = 00, BRC 4: the shortcut
theorem test_huff :
    (let t := afterWord 0x18800000#32 (withGb [0xE0#8] 0#32)
     huffWord t = 0x403#32 ∧ t.cur = 4#32 ∧ statusWord t.status = 0x28#32) ∧
    huffWord (afterWord 0x19000000#32 (withGb [0x00#8] 0#32)) = 0x200#32 := by
  constructor <;> decide +kernel
-- GB = FF C0, BRC 4: no code; GB = 7C: no match in lengths 2 to 8, the read at 9 passes the end; BRC 7 at CUR 3
theorem test_huff_errors :
    (let t := afterWord 0x19000000#32 (withGb [0xFF#8, 0xC0#8] 0#32)
     t.status.errCode = 3#4 ∧ t.cur = 0#32 ∧ t.errPos = 0#32) ∧
    (afterWord 0x19000000#32 (withGb [0x7C#8] 0#32)).status.errCode = 2#4 ∧
    (let t := afterWord 0x19C00000#32 (withGb [] 3#32)
     t.status.errCode = 6#4 ∧ t.errPos = 3#32) := by
  refine ⟨?_, ?_, ?_⟩ <;> decide +kernel

/-! ## EXTRACT (95_test_vectors 2.5) -/

def phBytes : List Byte := [0x0C, 0x1C, 0xC0, 0x01, 0x00, 0x4D]

/-- The 62-byte secondary header of P2 with the given baq_mode and number_of_quads. -/
def shBytes (bm nq : Byte) : List Byte :=
  List.replicate 6 0#8 ++ [0x35, 0x2E, 0xF8, 0x53] ++ List.replicate 21 0#8 ++ [bm] ++ List.replicate 28 0#8 ++
    [nq, 0#8]

/-- `start` with a primary header in PH and a secondary one in SH. -/
def withHeaders (ph sh : List Byte) : State := { start with ph := bufferOf ph, sh := bufferOf sh }

-- the primary header; in the secondary one sync_marker is row 2 and number_of_quads row 44
theorem test_extract :
    (let t := afterWord 0x22000000#32 (withHeaders phBytes [])
     t.map0 = [0, 0, 1, 65, 12, 3, 1, 77] ∧ statusWord t.status = 0x48#32) ∧
    (let t := afterWord 0x24400000#32 (withHeaders [] (shBytes 0 2))
     t.map1.getD 2 0 = 892270675 ∧ t.map1.getD 44 0 = 2 ∧ t.map1.length = 46 ∧ statusWord t.status = 0x88#32) := by
  constructor <;> decide +kernel
-- the first 5 bytes: BufferTooShort at 32
theorem test_extract_short :
    let t := afterWord 0x22000000#32 (withHeaders (phBytes.take 5) [])
    t.errPos = 32#32 ∧ t.status.errCode = 2#4 ∧ t.map0 = start.map0 ∧ t.status.map0Valid = false := by decide +kernel

/-! ## CONSTRUCT (95_test_vectors 2.6) -/

/-- The state before CONSTRUCT: packet_data_length, baq_mode, test_mode, number_of_quads, and UD's bytes. -/
def beforeConstruct (pdl bm tm nq : BitVec 64) (bytes : List Byte) : State :=
  { start with
    status := { start.status with map0Valid := true, map1Valid := true },
    map0 := List.replicate 7 0 ++ [pdl],
    map1 := List.replicate 6 0 ++ [tm] ++ List.replicate 8 0 ++ [bm] ++ List.replicate 28 0 ++ [nq, 0],
    ud := bufferOf bytes }

-- pdl 161, LEN[UD] 100, bm 0, tm 0, nq 2; and pdl 61, LEN[UD] 0, bm 12, nq 0 gives MODE 0x3000C
theorem test_construct :
    (let t := afterWord 0x28000000#32 (beforeConstruct 161 0 0 2 (List.replicate 100 0#8))
     statusWord t.status = 0x1C8#32 ∧ modeWord t = 0#32 ∧ t.nq = 2#32 ∧ t.nb = 1#32) ∧
    (let t := afterWord 0x28000000#32 (beforeConstruct 61 12 0 0 [])
     modeWord t = 0x3000C#32 ∧ t.nb = 0#32 ∧ t.status.lastOk = true) := by
  constructor <;> decide +kernel
-- W4: pdl 161, LEN[UD] 99; pdl 50 with an expected length of -11; bm 31
theorem test_construct_errors :
    (let t := afterWord 0x28000000#32 (beforeConstruct 161 0 0 2 (List.replicate 99 0#8))
     statusWord t.status = 0x000400C2#32 ∧ t.errPos = 99#32) ∧
    (afterWord 0x28000000#32 (beforeConstruct 50 0 0 0 [])).status.errCode = 4#4 ∧
    (let t := afterWord 0x28000000#32 (beforeConstruct 61 31 0 0 [])
     t.status.errCode = 5#4 ∧ t.errPos = 31#32) := by
  refine ⟨?_, ?_, ?_⟩ <;> decide +kernel
-- W3 and 2.6: bm 0 with tm 0 to 7 gives A B B A B B A B; 4 gives C; and NB by NQ
theorem test_classify :
    (List.range 8).map (classify 0) = [some .a, some .b, some .b, some .a, some .b, some .b, some .a, some .b] ∧
      classify 4 0 = some .c ∧ classify 14 7 = some .d ∧ classify 6 0 = none ∧
      [0, 1, 127, 128, 129, 255, 256, 257, 65535].map (ceilDiv · 128) = [0, 1, 1, 1, 2, 2, 2, 3, 512] := by decide

/-! ## GET_SAMPLES (95_test_vectors 2.7, 2.8, 2.9) -/

def udP2 : List Byte := [0x01, 0x60, 0x10, 0x00, 0xCB, 0x00, 0x20, 0x00, 0x00, 0x1F, 0xF0, 0x00, 0xFF, 0xE0, 0x70, 0x00]

def udP3 : List Byte := [0x4E, 0xFE, 0x3F, 0x00, 0x04, 0xFE, 0x80, 0x00, 0x6F, 0x80]

-- P2
theorem test_samples_type_a :
    let t := afterWord 0x30000000#32 (withPacket .a 2#32 1#32 udP2)
    t.out = [(.int 5, .int 0), (.int (-300), .int (-511)), (.int (-1), .int 511), (.int 2, .int (-7))] ∧
      t.ud.len = 0#32 ∧ statusWord t.status = 0x7C8#32 := by decide +kernel
-- P3
theorem test_samples_type_d :
    let t := afterWord 0x30000000#32 (withPacket .d 2#32 1#32 udP3)
    t.out = [(.int 3, .int (-34)), (.int 0, .int 2), (.int (-34), .int 1), (.int (-5), .int (-4))] ∧
      t.brc = [2#3] ∧ t.thidx = [4#8] ∧ statusWord t.status = 0x7C8#32 := by decide +kernel

/-- TCFG-X: the key (3, 111) of BRC 0 maps to symbol 4. -/
def tcfgX : ConfigData :=
  { tcfgData with modes := (testMode 0 3 3 1 [⟨1, 0, 0#8⟩, ⟨2, 2, 1#8⟩, ⟨3, 6, 2#8⟩, ⟨3, 7, 4#8⟩]) :: tcfgData.modes.tail }

theorem test_tcfgX_wf : tcfgX.wf = true := by decide +kernel

/-- Under TCFG-X a packet whose bit-stream decodes and whose first magnitude has no level (2.9). -/
def withBadMagnitude : State :=
  { withPacket .d 1#32 1#32 [0x0E, 0, 0, 0, 0x03, 0xC0, 0, 0] with cfg := ⟨tcfgX, test_tcfgX_wf⟩ }

-- 2.7: seven bytes of Type A fail at 49 and keep UD; 2.8: P3 cut to 9 bytes fails at 69; a BRC field of 5; P5: no code, at 4;
-- 2.7: format C, and no packet at all; 2.9: InvalidMagnitudeCode, and the bit-stream error that wins when the data is cut
theorem test_samples_errors :
    (let t := afterWord 0x30000000#32 (withPacket .a 1#32 1#32 [0x00, 0x40, 0x00, 0x80, 0x00, 0xC0, 0x81])
     t.errPos = 49#32 ∧ t.status.errCode = 2#4 ∧ t.ud.len = 7#32 ∧ t.status.cacheValid = false) ∧
    (let t := afterWord 0x30000000#32 (withPacket .d 2#32 1#32 (udP3.take 9))
     t.errPos = 69#32 ∧ t.status.errCode = 2#4 ∧ t.ud.len = 9#32) ∧
    (let t := afterWord 0x30000000#32 (withPacket .d 1#32 1#32 [0xA0, 0, 0, 0, 0, 0, 0, 0])
     statusWord t.status = 0x000601C2#32 ∧ t.errPos = 0#32) ∧
    (let t := afterWord 0x30000000#32 (withPacket .d 1#32 1#32 [0x9F, 0xFC, 0, 0, 0, 0])
     statusWord t.status = 0x000301C2#32 ∧ t.errPos = 4#32) ∧
    (let t := afterWord 0x30000000#32 (withPacket .c 2#32 1#32 (List.replicate 16 0#8))
     statusWord t.status = 0x000901C2#32 ∧ t.ud.len = 16#32) ∧
    statusWord (afterWord 0x30000000#32 start).status = 0x000B0002#32 ∧
    (let t := afterWord 0x30000000#32 withBadMagnitude
     statusWord t.status = 0x000701C2#32 ∧ t.errPos = 0#32) ∧
    (let t := afterWord 0x30000000#32 { withBadMagnitude with ud := bufferOf [0x0E, 0, 0, 0, 0x03, 0xC0] }
     t.status.errCode = 2#4 ∧ t.errPos = 48#32) := by
  refine ⟨?_, ?_, ?_, ?_, ?_, ?_, ?_, ?_⟩ <;> decide +kernel
-- 2.9: rows of ReconD with a value in the simple table, and rows of the normalised branch
theorem test_recon :
    reconD tcfg 0 3 ⟨true, 3⟩ = .ok (.int (-13)) ∧ reconD tcfg 4 8 ⟨true, 15⟩ = .ok (.int (-58)) ∧
      reconD tcfg 0 0 ⟨true, 0⟩ = .ok (.int 0) ∧ reconD tcfg 0 0 ⟨false, 4⟩ = .error ⟨.invalidMagnitudeCode, 0⟩ ∧
      reconD tcfg 2 6 ⟨false, 6⟩ = .ok (Config.mul (.other 13) (.int 6)) ∧
      reconD tcfg 0 4 ⟨false, 4⟩ = .error ⟨.invalidMagnitudeCode, 0⟩ := ⟨rfl, rfl, rfl, rfl, rfl, rfl⟩

/-! ## Transactions (95_test_vectors 2.10, 10_state R54) -/

theorem test_clear_error :
    let s := { start with status := { start.status with err := true, multiErr := true, resValid := true, errCode := 2#4 },
                          errPos := 16#32 }
    let t := afterStep (.wr 1#6 2#32) s
    statusWord t.status = 0x10#32 ∧ t.errPos = 0#32 := by decide +kernel

/-- `start` with a valid cache of no samples. -/
def withCache : State :=
  { start with status := { start.status with map0Valid := true, map1Valid := true, pktValid := true,
                                             cacheValid := true, udReleased := true } }

-- P7: LOAD UD after a cached packet gives STATUS 0x0C0 (LAST_OK 0 there)
theorem test_load_invalidates :
    let t := afterStep (.load .ud udP3) withCache
    statusWord t.status = 0xC0#32 ∧ t.ud.len = 10#32 := by decide +kernel
theorem test_read_register :
    (afterStep (.rd 14#6) start).reply = some (.register 0#32) ∧
      (afterStep (.rd 5#6) { start with res := 0x0102030405060708#64 }).reply = some (.register 0x01020304#32) := by
  constructor <;> decide +kernel
theorem test_host_faults :
    faultsWith (.rdMap false 0) start .readInvalidMap = true ∧
      faultsWith (.load .ph (List.replicate 7 0#8)) start .loadOverCapacity = true := by
  constructor <;> decide +kernel
theorem test_reset_idle : (match step State.reset with | .next t => t.pending | _ => [.reset]) = [] := by decide

/-! ## Witnesses: for each obligation with hypotheses, concrete values that meet them, clause by clause -/

/-- The buffer of W1. -/
def bufB4 : Buffer := bufferOf [0xB4#8]

/-- A state with one pending transaction. -/
def pend (t : Transaction) (s : State) : State := { s with pending := [t] }

/-- A buffer that holds nothing. -/
theorem empty_ok (cap : Nat) : BufferOk cap Buffer.empty := ⟨Nat.zero_le _, rfl⟩

theorem start_buffers : start.BuffersOk := ⟨empty_ok _, empty_ok _, empty_ok _, empty_ok _⟩

theorem start_packet : start.PacketOk :=
  ⟨mapFits_zeros _, mapFits_zeros _, Nat.zero_le _, by decide +kernel, rfl⟩

theorem withCache_cache : withCache.CacheOk :=
  ⟨fun _ => by decide, fun _ => Nat.le_refl 0, fun _ h => by cases h⟩

theorem test_witness_DecodeOfEncode :
    Instr.wf (.readBits .ud true 127#7) = true ∧ Instr.wf .align = true ∧ Instr.wf (.huff .sh 7#3) = true ∧
      Instr.wf (.extract .gb 1#3) = true ∧ Instr.wf .construct = true ∧ Instr.wf .getSamples = true := by decide

theorem test_witness_DecodedWordIsEncoding : decode 0x0E3FC000#32 = .ok (.readBits .ud true 127#7) := by decide

-- one word for each condition of 30_encoding R109, and a word that meets none
theorem test_witness_IllegalWordOnlyRecorded :
    IllegalWord 0x38000000#32 ∧ IllegalWord 0x08002000#32 ∧ IllegalWord 0x0840C000#32 ∧ IllegalWord 0x18200000#32 ∧
      IllegalWord 0x10004000#32 ∧ IllegalWord 0x20800000#32 ∧ ¬ IllegalWord 0x0820C000#32 ∧
      (pend (.wr 0#6 0x38000000#32) start).status.busy = false := by
  refine ⟨?_, ?_, ?_, ?_, ?_, ?_, ?_, rfl⟩ <;> unfold IllegalWord bitField <;> decide

theorem test_witness_StepRunsDecodedCommand :
    (pend (.wr 0#6 0x10000000#32) start).status.busy = false ∧
      (pend (.wr 0#6 0x10000000#32) start).pending = [.wr 0#6 0x10000000#32] ∧ decode 0x10000000#32 = .ok .align :=
  ⟨rfl, rfl, by decide⟩

theorem test_witness_CoreIdlesWithoutTransaction : start.pending = [] := rfl

-- a step that faults and a step that does not
theorem test_witness_StepFaultsOnBrokenDuty :
    ¬ SafeStep (pend (.rdMap false 0) start) ∧ SafeStep (pend (.rdMap false 7) withCache) ∧ SafeStep start := by
  refine ⟨?_, ⟨rfl, rfl, by decide +kernel⟩, trivial⟩
  rintro ⟨-, h, -⟩
  cases h

theorem test_witness_ConfigurationFixed : step start = .next start := rfl

theorem test_witness_FieldIsMsbFirst : (1 ≤ 3 ∧ 3 ≤ 64 ∧ 5 + 3 ≤ 8 * bufLen bufB4) := by decide +kernel

theorem test_witness_MixedWidthsAgree :
    2 ≤ bufLen (bufferOf [0xB4#8, 0x5A#8]) ∧ readBits tcfg bufB4 0 3 = .ok 5 ∧ readBits tcfg bufB4 (0 + 3) 5 = .ok 20 := by
  refine ⟨?_, ?_, ?_⟩ <;> decide +kernel

-- N = 1, N = 64 to the last bit; N = 0, 65 and 127; one bit too many
theorem test_witness_ReadBitsResult :
    (let s := withGb (List.replicate 8 0xB4#8) 0#32
     1 ≤ (64#7).toNat ∧ (64#7).toNat ≤ 64 ∧ s.cur.toNat + (64#7).toNat ≤ 8 * bufLen (selBuf s .gb)) ∧
    (let s := withGb [0xB4#8] 7#32
     1 ≤ (1#7).toNat ∧ s.cur.toNat + (1#7).toNat ≤ 8 * bufLen (selBuf s .gb) ∧
       8 * bufLen (selBuf s .gb) < s.cur.toNat + (2#7).toNat) ∧
    (0#7).toNat = 0 ∧ 64 < (65#7).toNat ∧ 64 < (127#7).toNat := by
  refine ⟨?_, ?_, ?_, ?_, ?_⟩ <;> decide +kernel

theorem test_witness_BytesBeyondLengthUnread :
    SameBytes { len := 1#32, mem := cellsFrom 0 [1#8, 2#8] } { len := 1#32, mem := cellsFrom 0 [1#8, 3#8] } := by
  refine ⟨rfl, fun a ha => ?_⟩
  have h : a = 0 := by
    have : a < 1 := ha
    omega
  subst h
  decide

theorem test_witness_AlignUpIsLeastMultiple : 1 ≤ 16 ∧ (16 ∣ 32) ∧ 17 ≤ 32 ∧ (16 ∣ 16) := by decide

-- the last cursor that aligns and the first that does not
theorem test_witness_AlignResult :
    alignUp tcfg.wordUnit (withGb [] 0xFFFFFFF0#32).cur.toNat < 2 ^ 32 ∧
      2 ^ 32 ≤ alignUp tcfg.wordUnit (withGb [] 0xFFFFFFF1#32).cur.toNat := by
  constructor <;> decide +kernel

theorem withGb_buffers : (withGb [0xE0#8] 0#32).BuffersOk :=
  ⟨⟨by decide +kernel, by decide +kernel⟩, empty_ok _, empty_ok _, empty_ok _⟩

theorem test_witness_CursorNeverWraps :
    let s := withGb [0xE0#8] 0#32
    s.BuffersOk ∧
      ((ran (.readBits .gb true 8#7) s).status.lastOk = true ∧
        exec (.readBits .gb true 8#7) s = .next (ran (.readBits .gb true 8#7) s)) ∧
      ((ran (.huff .gb 2#3) s).status.lastOk = true ∧ exec (.huff .gb 2#3) s = .next (ran (.huff .gb 2#3) s)) ∧
      ((ran .align s).status.lastOk = true ∧ exec .align s = .next (ran .align s)) :=
  ⟨withGb_buffers, ⟨by decide +kernel, exec_ran _ _⟩, ⟨by decide +kernel, exec_ran _ _⟩,
    ⟨by decide +kernel, exec_ran _ _⟩⟩

-- mode 3, and mode 4 with a prefix that is not zero
theorem test_witness_HuffmanShortestKey :
    3 ≤ tcfg.brcMax ∧ 4 ≤ tcfg.brcMax ∧ 0 + tcfg.scPlen ≤ 8 * bufLen bufB4 ∧ bitsValue bufB4 0 tcfg.scPlen ≠ 0 ∧
      huffDecode tcfg bufB4 3 0 = .ok (1#8, 2) := by
  refine ⟨?_, ?_, ?_, ?_, ?_⟩ <;> decide +kernel

theorem test_witness_HuffmanErrorOrder :
    tcfg.brcMax < 5 ∧ (4 ≤ tcfg.brcMax ∧ 8 * bufLen bufB4 < 7 + tcfg.scPlen) ∧
      (4 ≤ tcfg.brcMax ∧ 0 + tcfg.scPlen ≤ 8 * bufLen (bufferOf [0xFF#8]) ∧
        bitsValue (bufferOf [0xFF#8]) 0 tcfg.scPlen ≠ 0 ∧
        ∀ k, (tcfg.mode 4).startLen ≤ k → k ≤ tcfg.huffMaxLen → 0 + k ≤ 8 * bufLen (bufferOf [0xFF#8]) →
          huffLookup (tcfg.mode 4) k (bitsValue (bufferOf [0xFF#8]) 0 k) = none) := by
  refine ⟨by decide +kernel, by decide +kernel, by decide +kernel, by decide +kernel, by decide +kernel,
    fun k _ _ h => ?_⟩
  have hk : k < 9 := by
    have : 0 + k ≤ 8 := h
    omega
  have all : ∀ j : Fin 9, huffLookup (tcfg.mode 4) j (bitsValue (bufferOf [0xFF#8]) 0 j) = none := by decide +kernel
  exact all ⟨k, hk⟩

-- a zero prefix, another prefix, a prefix past the end, another mode
theorem test_witness_HuffmanShortcut :
    4 ≤ tcfg.brcMax ∧ 3 + tcfg.scPlen ≤ 8 * bufLen bufB4 ∧ bitsValue bufB4 6 tcfg.scPlen = 0 ∧
      bitsValue bufB4 0 tcfg.scPlen ≠ 0 ∧ 8 * bufLen bufB4 < 7 + tcfg.scPlen ∧ 3 ≤ tcfg.brcMax := by
  refine ⟨?_, ?_, ?_, ?_, ?_, ?_⟩ <;> decide +kernel

theorem test_witness_HuffResult :
    let s := withGb [0xE0#8] 0#32
    huffDecode s.cfg (selBuf s .gb) (2#3).toNat s.cur.toNat = .ok (3#8, 4) ∧
      huffDecode s.cfg (selBuf s .ud) (2#3).toNat s.cur.toNat = .error ⟨.bufferTooShort, 0⟩ ∧
      s.cfg.brcMax < (5#3).toNat ∧ s.cfg.brcMax < (7#3).toNat := by
  refine ⟨?_, ?_, ?_, ?_⟩ <;> decide +kernel

theorem tcfg_widths : ∀ f ∈ tcfg.phTable, 1 ≤ f.width ∧ f.width ≤ 64 := by decide +kernel

-- a buffer of exactly the table's bits and one a byte shorter
theorem test_witness_ExtractReadsRowsInOrder :
    (∀ f ∈ tcfg.phTable, 1 ≤ f.width ∧ f.width ≤ 64) ∧ tableBits tcfg.phTable ≤ 8 * bufLen (bufferOf phBytes) ∧
      tcfg.phTable[7]? = some ⟨.packetDataLength, 16⟩ ∧
      8 * bufLen (bufferOf (phBytes.take 5)) < tableBits tcfg.phTable :=
  ⟨tcfg_widths, by decide +kernel, by decide +kernel, by decide +kernel⟩

theorem test_witness_ExtractResult :
    (let s := withHeaders phBytes (shBytes 0 2)
     tableBits s.cfg.phTable ≤ 8 * bufLen (selBuf s .ph) ∧ tableBits s.cfg.shTable ≤ 8 * bufLen (selBuf s .sh) ∧
       8 * bufLen (selBuf s .ph) < tableBits (selTable s.cfg ((1#3).toNat == 1)) ∧ (1#3).toNat ≤ 1 ∧
       8 * bufLen (selBuf s .gb) < tableBits (selTable s.cfg ((0#3).toNat == 1))) ∧
    1 < (2#3).toNat ∧ 1 < (7#3).toNat := by
  refine ⟨?_, ?_, ?_⟩ <;> decide +kernel

-- no maps; a wrong length; a negative length; the right length with a mode outside the classification and one inside
theorem test_witness_ConstructResult :
    start.status.map0Valid = false ∧
    (let s := beforeConstruct 161 0 0 2 (List.replicate 99 0#8)
     s.status.map0Valid = true ∧ s.status.map1Valid = true ∧
       (s.ud.len.toNat : Int) ≠ (lookupField s.cfg.phTable s.map0 .packetDataLength).toNat + 1 - s.cfg.shSize) ∧
    (let s := beforeConstruct 60 0 0 2 []
     (lookupField s.cfg.phTable s.map0 .packetDataLength).toNat + 1 < s.cfg.shSize) ∧
    (let s := beforeConstruct 61 12 0 0 []
     (s.ud.len.toNat : Int) = (lookupField s.cfg.phTable s.map0 .packetDataLength).toNat + 1 - s.cfg.shSize ∧
       (lookupField s.cfg.shTable s.map1 .baqMode).toNat = 12) ∧
    classify 12 0 = some .d ∧
    (let s := beforeConstruct 61 31 0 0 []
     (s.ud.len.toNat : Int) = (lookupField s.cfg.phTable s.map0 .packetDataLength).toNat + 1 - s.cfg.shSize ∧
       (lookupField s.cfg.shTable s.map1 .baqMode).toNat = 31) ∧
    classify 31 0 = none := by
  refine ⟨?_, ?_, ?_, ?_, ?_, ?_, ?_⟩ <;> decide +kernel

theorem test_witness_SamplesRejected :
    start.status.pktValid = false ∧
    (let s := withPacket .c 2#32 1#32 []
     s.status.pktValid = true ∧ s.status.cacheValid = false ∧ s.fmt = .c) := ⟨rfl, rfl, rfl, rfl⟩

-- as step runs it, with BUSY = 1
theorem test_witness_SamplesMemoised :
    let s := startCommand withCache
    s.status.busy = true ∧ s.status.pktValid = true ∧ s.status.cacheValid = true := ⟨rfl, rfl, rfl⟩

-- seven bytes and two bits are needed for one quad, seven bytes are too few
theorem test_witness_TypeABSamples :
    let s := withPacket .b 1#32 1#32 (List.replicate 8 0#8)
    s.status.pktValid = true ∧ s.status.cacheValid = false ∧ (s.fmt = .a ∨ s.fmt = .b) ∧
      abBitsNeeded s.cfg s.nq.toNat ≤ 8 * bufLen s.ud :=
  ⟨rfl, rfl, .inr rfl, by decide +kernel⟩

-- 2.7: the magnitude of the last code is missing, at 49; with six bytes its sign is, at 48
theorem test_witness_TypeABLengthNeeded :
    tcfg.abMagBits = 9 ∧
    let s := withPacket .a 1#32 1#32 (List.replicate 7 0#8)
    s.status.pktValid = true ∧ s.status.cacheValid = false ∧ (s.fmt = .a ∨ s.fmt = .b) ∧
      ¬ abBitsNeeded s.cfg s.nq.toNat ≤ 8 * bufLen s.ud ∧ abFailOffset s.cfg s.ud 1 3 0 = 49 ∧
      abFailOffset s.cfg (bufferOf (List.replicate 6 0#8)) 1 3 0 = 48 :=
  ⟨rfl, rfl, rfl, .inl rfl, by decide +kernel, by decide +kernel, by decide +kernel⟩

-- the ends of the exact range
theorem test_witness_SignedIntegersExact :
    (-511 : Int).natAbs ≤ 511 ∧ (511 : Int).natAbs ≤ 511 ∧ (511 : Int) ≠ 0 ∧ svalOfInt 511 = svalOfInt 511 :=
  ⟨by decide, by decide, by decide, rfl⟩

/-- P3 decoded. -/
theorem decode_p3 :
    decodeD tcfg (bufferOf udP3) 2 1 =
      .ok ([(.int 3, .int (-34)), (.int 0, .int 2), (.int (-34), .int 1), (.int (-5), .int (-4))], [2#3], [4#8]) := by
  decide +kernel

theorem test_witness_TypeDResult :
    let s := withPacket .d 2#32 1#32 udP3
    s.status.pktValid = true ∧ s.status.cacheValid = false ∧ s.fmt = .d ∧
      ∃ out brc thidx, decodeD s.cfg s.ud s.nq.toNat s.nb.toNat = .ok (out, brc, thidx) :=
  ⟨rfl, rfl, rfl, _, _, _, decode_p3⟩

theorem test_witness_TypeDSideInformation :
    ∃ out brc thidx, decodeD tcfg (bufferOf udP3) 2 (ceilDiv 2 tcfg.blockQ) = .ok (out, brc, thidx) :=
  ⟨_, _, _, decode_p3⟩

theorem test_witness_TypeDLayout :
    ∃ out brc thidx, decodeD tcfg (bufferOf udP3) 2 (ceilDiv 2 tcfg.blockQ) = .ok (out, brc, thidx) :=
  ⟨_, _, _, decode_p3⟩

-- a BRC above BRC_MAX at 0; no code at 4 (P5); a magnitude without a level
theorem test_witness_TypeDErrorPosition :
    let s := withPacket .d 1#32 1#32 [0xA0#8]
    let p := withPacket .d 1#32 1#32 [0x9F, 0xFC, 0, 0, 0, 0]
    let m := withBadMagnitude
    (s.status.pktValid = true ∧ s.status.cacheValid = false ∧ s.fmt = .d ∧
      s.nb.toNat = ceilDiv s.nq.toNat s.cfg.blockQ ∧ decodeD s.cfg s.ud s.nq.toNat s.nb.toNat = .error ⟨.invalidBrc, 0⟩) ∧
    decodeD p.cfg p.ud p.nq.toNat p.nb.toNat = .error ⟨.huffmanDecodeError, 4⟩ ∧
    (m.status.pktValid = true ∧ m.status.cacheValid = false ∧ m.fmt = .d ∧
      m.nb.toNat = ceilDiv m.nq.toNat m.cfg.blockQ ∧
      decodeD m.cfg m.ud m.nq.toNat m.nb.toNat = .error ⟨.invalidMagnitudeCode, 0⟩) :=
  ⟨⟨rfl, rfl, rfl, by decide +kernel, by decide +kernel⟩, by decide +kernel,
    rfl, rfl, rfl, by decide +kernel, by decide +kernel⟩

theorem test_witness_BitStreamErrorsFirst :
    codesD tcfg (bufferOf [0xA0#8]) 1 1 = .error ⟨.invalidBrc, 0⟩ ∧
      (∃ r, codesD withBadMagnitude.cfg withBadMagnitude.ud 1 1 = .ok r) ∧
      decodeD withBadMagnitude.cfg withBadMagnitude.ud 1 1 = .error ⟨.invalidMagnitudeCode, 0⟩ := by
  have h : (codesD withBadMagnitude.cfg withBadMagnitude.ud 1 1).isOk = true := by decide +kernel
  refine ⟨by decide +kernel, ?_, by decide +kernel⟩
  cases hc : codesD withBadMagnitude.cfg withBadMagnitude.ud 1 1 with
  | ok r => exact ⟨r, rfl⟩
  | error e => rw [hc] at h; cases h

-- no block; a block before the last; the last block, short and whole
theorem test_witness_BlocksCoverPacket :
    0 + 1 < ceilDiv 129 tcfg.blockQ ∧ 1 ≤ 129 ∧ tcfg.blockQ ∣ 256 ∧ ceilDiv 0 tcfg.blockQ = 0 := by decide +kernel

-- each branch at its last threshold index or magnitude
theorem test_witness_ReconstructionBranches :
    3 ≤ (tcfg.mode 0).thidxMax ∧ ((2 : Nat) : Int) < (tcfg.mode 0).mCode ∧ ((3 : Nat) : Int) = (tcfg.mode 0).mCode ∧
      (tcfg.mode 0).mCode < ((4 : Nat) : Int) ∧ (tcfg.mode 0).thidxMax < 4 ∧ 3 < (tcfg.mode 0).normalized.length ∧
      (tcfg.mode 0).normalized.length ≤ 4 := by
  refine ⟨?_, ?_, ?_, ?_, ?_, ?_, ?_⟩ <;> decide +kernel

theorem test_witness_InterleaveOrder :
    [SVal.int 3].length = [SVal.int 1].length ∧ [SVal.int 2].length = [SVal.int 1].length ∧
      [SVal.int 4].length = [SVal.int 1].length ∧ 0 < [SVal.int 1].length := by decide

-- a Type D decode that fails, as step runs it, with BUSY = 1
theorem test_witness_FailedSamplesKeepState :
    let s := startCommand (withPacket .d 1#32 1#32 [0xA0#8])
    s.status.busy = true ∧ (s.status.cacheValid = true → s.status.pktValid = true) ∧
      exec .getSamples s = .next (ran .getSamples s) ∧ (ran .getSamples s).status.lastOk = false :=
  ⟨rfl, fun _ => rfl, exec_ran _ _, by decide +kernel⟩

theorem withPacket_packet : (withPacket .d 2#32 1#32 udP3).PacketOk :=
  ⟨mapFits_zeros _, mapFits_zeros _, by decide +kernel, by decide +kernel, by decide +kernel⟩

-- P3 decoded twice, the second time with another byte beyond its end
theorem test_witness_SamplesDeterministic :
    let s := withPacket .d 2#32 1#32 udP3
    let s' := { s with cur := 7#32, ud := { len := 10#32, mem := cellsFrom 0 (udP3 ++ [0xFF#8]) } }
    s.PacketOk ∧ s'.cfg = s.cfg ∧ s'.fmt = s.fmt ∧ s'.nq = s.nq ∧ s'.nb = s.nb ∧ SameBytes s.ud s'.ud ∧
      s.status.pktValid = true ∧ s.status.cacheValid = false ∧ s'.status.pktValid = true ∧
      s'.status.cacheValid = false ∧ (ran .getSamples s).status.lastOk = true ∧
      exec .getSamples s = .next (ran .getSamples s) ∧ exec .getSamples s' = .next (ran .getSamples s') := by
  refine ⟨withPacket_packet, rfl, rfl, rfl, rfl, ⟨rfl, fun a ha => ?_⟩, rfl, rfl, rfl, rfl, by decide +kernel,
    exec_ran _ _, exec_ran _ _⟩
  have hl : a < 10 := ha
  have all : ∀ j : Fin 10, readByte (bufferOf udP3).mem j = readByte (cellsFrom 0 (udP3 ++ [0xFF#8])) j := by
    decide +kernel
  exact all ⟨a, hl⟩

theorem test_witness_ReleasedDataUnreadable :
    let s := withPacket .d 2#32 1#32 udP3
    s.status.pktValid = true ∧ s.status.cacheValid = false ∧ exec .getSamples s = .next (ran .getSamples s) ∧
      (ran .getSamples s).status.lastOk = true ∧ (1 ≤ (64#7).toNat ∧ (64#7).toNat ≤ 64) ∧
      (4#3).toNat ≤ (ran .getSamples s).cfg.brcMax :=
  ⟨rfl, rfl, exec_ran _ _, by decide +kernel, by decide, by decide +kernel⟩

theorem test_witness_CompletionRecord :
    start.status.err = false ∧ (ran .construct start).status.err = true := by
  constructor <;> decide +kernel

-- a command that fails, and a Type D decode that fails
theorem test_witness_FailedCommandWritesNothing :
    (exec .construct start = .next (ran .construct start) ∧ (ran .construct start).status.lastOk = false ∧
      ¬ (Instr.construct = .getSamples ∧ decodesTypeD start = true)) ∧
    (let s := withPacket .d 1#32 1#32 [0xA0#8]
     exec .getSamples s = .next (ran .getSamples s) ∧ (ran .getSamples s).status.lastOk = false) :=
  ⟨⟨exec_ran _ _, by decide +kernel, by decide⟩, exec_ran _ _, by decide +kernel⟩

theorem test_witness_ErrorRecordBlocksNothing : exec .align start = .next (ran .align start) := exec_ran _ _

-- a command of every kind: each clause of the frame has a command it speaks of
theorem test_witness_CommandFrame :
    exec .align start = .next (ran .align start) ∧
      exec (.extract .ph 0#3) start = .next (ran (.extract .ph 0#3) start) ∧
      exec .getSamples start = .next (ran .getSamples start) := ⟨exec_ran _ _, exec_ran _ _, exec_ran _ _⟩

theorem test_witness_StepKeepsConsistent :
    (pend .reset withCache).Consistent ∧ step (pend .reset withCache) = .next start :=
  ⟨⟨rfl, fun _ => rfl, fun _ => ⟨rfl, rfl⟩, fun _ => ⟨rfl, rfl⟩, fun _ => ⟨rfl, rfl, rfl⟩⟩, rfl⟩

theorem test_witness_StepKeepsBuffers : start.BuffersOk ∧ step start = .next start := ⟨start_buffers, rfl⟩

theorem test_witness_StepKeepsPacket :
    start.PacketOk ∧ (withPacket .d 2#32 1#32 udP3).PacketOk ∧ step start = .next start :=
  ⟨start_packet, withPacket_packet, rfl⟩

theorem test_witness_StepKeepsCache :
    withCache.PacketOk ∧ withCache.CacheOk ∧ withCache.status.cacheValid = true ∧ step withCache = .next withCache :=
  ⟨⟨mapFits_zeros _, mapFits_zeros _, Nat.zero_le _, by decide +kernel, rfl⟩, withCache_cache, rfl, rfl⟩

-- each event of 10_state R51
theorem test_witness_InvalidationEvents :
    (pend (.load .ud []) withCache).pending = [.load .ud []] ∧
      step (pend (.load .ud []) withCache) = .next (afterStep (.load .ud []) withCache) ∧
      step (pend (.load .gb []) withCache) = .next (afterStep (.load .gb []) withCache) ∧
      (withCache.status.pktValid = true ∧ (afterStep (.load .ud []) withCache).status.pktValid = false ∧
        withCache.status.cacheValid = true ∧ (afterStep (.load .ud []) withCache).status.cacheValid = false) ∧
      (decode 0x22000000#32 = .ok (.extract .ph 0#3) ∧
        (afterStep (.wr 0#6 0x22000000#32) (withHeaders phBytes [])).status.lastOk = true) ∧
      (decode 0x28000000#32 = .ok .construct ∧
        (afterStep (.wr 0#6 0x28000000#32) (beforeConstruct 61 12 0 0 [])).status.lastOk = true) := by
  refine ⟨rfl, rfl, rfl, ⟨rfl, rfl, rfl, rfl⟩, ⟨?_, ?_⟩, ?_, ?_⟩ <;> decide +kernel

theorem test_witness_SamplesSingleAssignment :
    let s := pend (.wr 0#6 0x30000000#32) (withPacket .d 2#32 1#32 udP3)
    ∃ t, step s = .next t ∧ t.out ≠ s.out := by
  have h : decode 0x30000000#32 = .ok .getSamples := by decide
  refine ⟨ran .getSamples (startCommand (takeNext (pend (.wr 0#6 0x30000000#32) (withPacket .d 2#32 1#32 udP3)) [])),
    ?_, by decide +kernel⟩
  rw [← exec_ran]
  simp [step, hostStep, pend, transact, withPacket, start, State.cleared, Status.cleared, takeNext, writeRegister,
    writeCommand, h]

-- an error pending, and a second one, and the write that is not the clearing one
theorem test_witness_ErrorRecordSticky :
    let s := pend (.wr 1#6 0xFFFFFFFD#32) (ran .construct start)
    s.status.err = true ∧ step s = .next (afterStep (.wr 1#6 0xFFFFFFFD#32) (ran .construct start)) ∧
      s.pending.head? ≠ some .reset ∧ (∀ v : Word, v.getLsbD 1 = true → s.pending.head? ≠ some (.wr 1#6 v)) := by
  refine ⟨by decide +kernel, rfl, by decide, fun v hv h => ?_⟩
  have e : v = 0xFFFFFFFD#32 := by
    have : some (Transaction.wr 1#6 0xFFFFFFFD#32) = some (.wr 1#6 v) := h
    simpa using this.symm
  rw [e] at hv
  revert hv
  decide

theorem test_witness_StepKeepsProducedCodes :
    (start.status.err = true → producedCode start.status.errCode) ∧
      step (pend (.wr 0#6 0x28000000#32) start) = .next (afterStep (.wr 0#6 0x28000000#32) start) ∧
      (afterStep (.wr 0#6 0x28000000#32) start).status.err = true :=
  ⟨fun h => (by cases h), rfl, by decide +kernel⟩

theorem test_witness_ResetClearsCore : (pend .reset start).pending = [.reset] := rfl

-- BRC_MAX is a legal mode and BRC_MAX + 1 is not
theorem test_witness_CommandsAfterReset :
    (1 ≤ (1#7).toNat ∧ (64#7).toNat ≤ 64) ∧ (4#3).toNat ≤ tcfg.brcMax ∧ tcfg.brcMax < (5#3).toNat ∧ (1#3).toNat ≤ 1 := by
  refine ⟨?_, ?_, ?_, ?_⟩ <;> decide +kernel

-- a LOAD of exactly the capacity
theorem test_witness_LoadReplacesBuffer :
    (pend (.load .ph phBytes) start).status.busy = false ∧ phBytes.length ≤ capacity start.cfg .ph ∧
      (pend (.load .ph phBytes) start).pending = [.load .ph phBytes] ∧ phBytes[5]? = some 0x4D#8 :=
  ⟨rfl, by decide +kernel, rfl, by decide⟩

theorem test_witness_HostRegisterWrites :
    (pend (.wr 63#6 1#32) start).status.busy = false ∧ (pend (.wr 63#6 1#32) start).pending = [.wr 63#6 1#32] ∧
      63#6 ≠ 0#6 ∧ 3#6 ≠ 1#6 ∧ 3#6 ≠ 2#6 ∧ (2#32 : Word).getLsbD 1 = true ∧ (0xFFFFFFFD#32 : Word).getLsbD 1 = false :=
  ⟨rfl, rfl, by decide, by decide, by decide, by decide, by decide⟩

theorem test_witness_HostRegisterReads :
    (pend (.rd 14#6) start).pending = [.rd 14#6] ∧ 14 ≤ (14#6).toNat ∧ ¬ 14 ≤ (13#6).toNat := ⟨rfl, by decide, by decide⟩

-- each array at its last entry
theorem test_witness_HostArrayReads :
    let s := { withCache with fmt := .d, nq := 2#32, nb := 1#32 }
    s.status.busy = false ∧ (pend (.rdOut 3) s).pending = [.rdOut 3] ∧ s.status.map0Valid = true ∧
      7 < s.cfg.phTable.length ∧ s.status.map1Valid = true ∧ 45 < s.cfg.shTable.length ∧ s.status.cacheValid = true ∧
      3 < 2 * s.nq.toNat ∧ s.fmt = .d ∧ 0 < s.nb.toNat :=
  ⟨rfl, rfl, rfl, by decide +kernel, rfl, by decide +kernel, rfl, by decide +kernel, rfl, by decide +kernel⟩

end Sys2Proof.Tests
end

section
/-! PROOFS. The exact integers of the S-values: what `applySign`, `svalOfInt` and `svalNeg` answer on them (00_scope R11, R15). -/

namespace Sys2Proof.Machine

@[simp] theorem applySign_false (c : Config) (x : SVal) : applySign c false x = x := rfl

@[simp] theorem applySign_true (c : Config) (x : SVal) : applySign c true x = svalNeg c x := rfl

theorem svalOfInt_of_natAbs_le {v : Int} (hv : v.natAbs ≤ 511) : svalOfInt v = .int v := if_pos hv

theorem svalOfInt_zero : svalOfInt 0 = .int 0 := svalOfInt_of_natAbs_le (by decide)

theorem svalOfInt_inj {v w : Int} (hv : v.natAbs ≤ 511) (hw : w.natAbs ≤ 511) (h : svalOfInt v = svalOfInt w) : v = w := by
  rw [svalOfInt_of_natAbs_le hv, svalOfInt_of_natAbs_le hw] at h
  exact SVal.int.inj h

theorem svalNeg_int_zero (c : Config) : svalNeg c (.int 0) = if c.negZeroDistinct then .negZero else .int 0 := rfl

theorem svalNeg_int (c : Config) {v : Int} (h0 : v ≠ 0) (hv : v.natAbs ≤ 511) : svalNeg c (.int v) = .int (-v) := by
  simp [svalNeg, h0, hv]

theorem svalNeg_svalOfInt (c : Config) {v : Int} (h0 : v ≠ 0) (hv : v.natAbs ≤ 511) :
    svalNeg c (svalOfInt v) = svalOfInt (-v) := by
  have hneg : (-v).natAbs ≤ 511 := v.natAbs_neg.symm ▸ hv
  rw [svalOfInt_of_natAbs_le hv, svalOfInt_of_natAbs_le hneg, svalNeg_int c h0 hv]

/-- The negative zero is another value than zero exactly with NEG_ZERO_DISTINCT (44_type_d_path R273). -/
theorem svalNeg_zero_ne_zero_iff (c : Config) : svalNeg c (svalOfInt 0) ≠ svalOfInt 0 ↔ c.negZeroDistinct = true := by
  rw [svalOfInt_zero, svalNeg_int_zero]
  cases c.negZeroDistinct with
  | false => simp
  | true => simp

/-- Settles O57: the sign by its two cases, the exact integers by the constructor that carries them. -/
theorem signedIntegersExact : Obligations.SignedIntegersExact := fun c =>
  ⟨fun x => ⟨applySign_false c x, applySign_true c x⟩,
    fun _ _ => svalOfInt_inj,
    fun _ => svalNeg_svalOfInt c,
    svalNeg_svalOfInt c (v := 511) (by decide) (by decide),
    applySign_true c _,
    svalNeg_zero_ne_zero_iff c⟩

end Sys2Proof.Machine
end

section
/-! PROOFS. Every command is its body under `complete`; no body reads the error record (10_state R53, 60_exceptions R324). -/

namespace Sys2Proof.Machine

/-! ## Every command as a body and a base -/

/-- The body of a command: the state it computes, or the error it raises. -/
def commandBody (i : Instr) (s : State) : Except Raise State :=
  match i with
  | .readBits b a n => readBitsResult b a n s
  | .align => alignResult s
  | .huff b m => huffResult b m s
  | .extract b t =>
    if 1 < t.toNat then .error ⟨.illegalCommand, (encode (.extract b t)).toNat⟩ else extractResult b (t.toNat == 1) s
  | .construct => constructResult s
  | .getSamples => getSamplesResult s

/-- The state in which a failing command records its error. -/
def commandBase (i : Instr) (s : State) : State :=
  match i with
  | .getSamples => afterFailedSamples s
  | _ => s

theorem exec_eq_complete (i : Instr) (s : State) :
    exec i s = .next (complete (commandBase i s) (commandBody i s)) := by
  cases i with
  | readBits b a n => rfl
  | align => rfl
  | huff b m => rfl
  | extract b t =>
    simp only [exec, execExtract, commandBody]
    split_ifs
    · rfl
    · rfl
  | construct => rfl
  | getSamples =>
    cases h : getSamplesResult s with
    | ok u => simp [exec_getSamples_ok h, commandBody, h]
    | error e => simp [exec_getSamples_error h, commandBody, commandBase, h]

/-! ## States that differ in the error record -/

/-- A content of the error record and of LAST_OK (10_state R36, R37). -/
structure ErrorRecord where
  err : Bool
  multiErr : Bool
  lastOk : Bool
  errCode : BitVec 4
  errPos : Word

/-- The state with another error record. -/
def State.withRecord (s : State) (r : ErrorRecord) : State :=
  { s with errPos := r.errPos,
           status := { s.status with err := r.err, multiErr := r.multiErr, lastOk := r.lastOk, errCode := r.errCode } }

/-- The second state is the first but for ERR, MULTI_ERR, ERRCODE and ERRPOS; LAST_OK is the same. -/
def AlikeButRecord (t t' : State) : Prop :=
  t' = { t with errPos := t'.errPos,
                status := { t.status with err := t'.status.err, multiErr := t'.status.multiErr,
                                          errCode := t'.status.errCode } }

/-- Completion sets LAST_OK by the outcome alone, so it leaves a difference in the rest of the record only. -/
theorem complete_withRecord (s : State) (x : Except Raise State) (r : ErrorRecord) :
    AlikeButRecord (complete s x) (complete (s.withRecord r) (x.map fun u => u.withRecord r)) := by
  cases x with
  | ok u => rfl
  | error e => rfl

/-! ## No body reads the record -/

section
variable (s : State) (r : ErrorRecord)

@[simp] theorem withRecord_cfg : (s.withRecord r).cfg = s.cfg := rfl
@[simp] theorem withRecord_cur : (s.withRecord r).cur = s.cur := rfl
@[simp] theorem withRecord_fmt : (s.withRecord r).fmt = s.fmt := rfl
@[simp] theorem withRecord_nq : (s.withRecord r).nq = s.nq := rfl
@[simp] theorem withRecord_nb : (s.withRecord r).nb = s.nb := rfl
@[simp] theorem withRecord_ud : (s.withRecord r).ud = s.ud := rfl
@[simp] theorem withRecord_pktValid : (s.withRecord r).status.pktValid = s.status.pktValid := rfl
@[simp] theorem withRecord_cacheValid : (s.withRecord r).status.cacheValid = s.status.cacheValid := rfl
@[simp] theorem withRecord_map0Valid : (s.withRecord r).status.map0Valid = s.status.map0Valid := rfl
@[simp] theorem withRecord_map1Valid : (s.withRecord r).status.map1Valid = s.status.map1Valid := rfl
@[simp] theorem withRecord_expectedLength : expectedLength (s.withRecord r) = expectedLength s := rfl
@[simp] theorem withRecord_mapBaqMode : mapBaqMode (s.withRecord r) = mapBaqMode s := rfl
@[simp] theorem withRecord_mapTestMode : mapTestMode (s.withRecord r) = mapTestMode s := rfl
@[simp] theorem withRecord_mapQuads : mapQuads (s.withRecord r) = mapQuads s := rfl
@[simp] theorem withRecord_decodesTypeD : decodesTypeD (s.withRecord r) = decodesTypeD s := rfl
@[simp] theorem withRecord_selBuf (b : BufSel) : selBuf (s.withRecord r) b = selBuf s b := by cases b <;> rfl

theorem setCur_withRecord (v : Nat) : setCur (s.withRecord r) v = (setCur s v).withRecord r := rfl

theorem setPacket_withRecord (bm tm : Nat) (f : Format) (q : Nat) :
    setPacket (s.withRecord r) bm tm f q = (setPacket s bm tm f q).withRecord r := rfl

theorem scrambleSide_withRecord : scrambleSide (s.withRecord r) = (scrambleSide s).withRecord r := rfl

theorem readBitsResult_withRecord (b : BufSel) (a : Bool) (n : BitVec 7) :
    readBitsResult b a n (s.withRecord r) = (readBitsResult b a n s).map fun u => u.withRecord r := by
  simp only [readBitsResult, withRecord_cfg, withRecord_selBuf, withRecord_cur]
  cases readBits s.cfg (selBuf s b) s.cur.toNat n.toNat with
  | error e => rfl
  | ok v =>
    cases a with
    | false => rfl
    | true => rfl

theorem alignResult_withRecord : alignResult (s.withRecord r) = (alignResult s).map fun u => u.withRecord r := by
  by_cases hc : 2 ^ 32 ≤ alignUp s.cfg.wordUnit s.cur.toNat
  · simp only [alignResult, withRecord_cfg, withRecord_cur, hc, ↓reduceIte, Except.map]
  · simp only [alignResult, withRecord_cfg, withRecord_cur, hc, ↓reduceIte, Except.map, setCur_withRecord]

theorem huffResult_withRecord (b : BufSel) (m : BitVec 3) :
    huffResult b m (s.withRecord r) = (huffResult b m s).map fun u => u.withRecord r := by
  simp only [huffResult, withRecord_cfg, withRecord_selBuf, withRecord_cur]
  cases huffDecode s.cfg (selBuf s b) m.toNat s.cur.toNat with
  | error e => rfl
  | ok x => rfl

theorem extractResult_withRecord (b : BufSel) (secondary : Bool) :
    extractResult b secondary (s.withRecord r) = (extractResult b secondary s).map fun u => u.withRecord r := by
  simp only [extractResult, withRecord_cfg, withRecord_selBuf]
  cases extractFields s.cfg (selBuf s b) (selTable s.cfg secondary) 0 with
  | error e => rfl
  | ok vals => rfl

theorem constructResult_withRecord :
    constructResult (s.withRecord r) = (constructResult s).map fun u => u.withRecord r := by
  by_cases hm : s.status.map0Valid = true ∧ s.status.map1Valid = true
  · by_cases hl : (bufLen s.ud : Int) = expectedLength s
    · cases hf : classify (mapBaqMode s) (mapTestMode s) with
      | none => simp [constructResult, hm, hl, hf, Except.map]
      | some f => simp [constructResult, hm, hl, hf, Except.map, setPacket_withRecord]
    · simp [constructResult, hm, hl, Except.map]
  · simp [constructResult, hm, Except.map]

theorem decodePacket_withRecord : decodePacket (s.withRecord r) = (decodePacket s).map fun u => u.withRecord r := by
  simp only [decodePacket, withRecord_fmt, withRecord_cfg, withRecord_ud, withRecord_nq, withRecord_nb]
  cases s.fmt with
  | c => rfl
  | d =>
    cases decodeD s.cfg s.ud s.nq.toNat s.nb.toNat with
    | error e => rfl
    | ok x => rfl
  | a =>
    cases decodeAB s.cfg s.ud s.nq.toNat with
    | error e => rfl
    | ok x => rfl
  | b =>
    cases decodeAB s.cfg s.ud s.nq.toNat with
    | error e => rfl
    | ok x => rfl

theorem getSamplesResult_withRecord :
    getSamplesResult (s.withRecord r) = (getSamplesResult s).map fun u => u.withRecord r := by
  cases hp : s.status.pktValid with
  | false => simp [getSamplesResult, hp, Except.map]
  | true =>
    cases hc : s.status.cacheValid with
    | false => simp [getSamplesResult, hp, hc, decodePacket_withRecord]
    | true => simp [getSamplesResult, hp, hc, Except.map]

theorem commandBody_withRecord (i : Instr) :
    commandBody i (s.withRecord r) = (commandBody i s).map fun u => u.withRecord r := by
  cases i with
  | readBits b a n => exact readBitsResult_withRecord s r b a n
  | align => exact alignResult_withRecord s r
  | huff b m => exact huffResult_withRecord s r b m
  | extract b t =>
    simp only [commandBody]
    split_ifs
    · rfl
    · exact extractResult_withRecord s r b _
  | construct => exact constructResult_withRecord s r
  | getSamples => exact getSamplesResult_withRecord s r

theorem commandBase_withRecord (i : Instr) : commandBase i (s.withRecord r) = (commandBase i s).withRecord r := by
  cases i with
  | getSamples =>
    cases hd : decodesTypeD s with
    | false => simp [commandBase, afterFailedSamples, hd]
    | true => simp [commandBase, afterFailedSamples, hd, scrambleSide_withRecord]
  | _ => rfl

end

/-- Settles O40: the body and the base of a command commute with a change of the record, and completion confines it. -/
theorem errorRecordBlocksNothing : Obligations.ErrorRecordBlocksNothing := by
  intro i s t e m l k p h
  rw [exec_eq_complete] at h
  cases h
  have hcomm := exec_eq_complete i (s.withRecord ⟨e, m, l, k, p⟩)
  rw [commandBase_withRecord, commandBody_withRecord] at hcomm
  exact ⟨_, hcomm, complete_withRecord _ _ _⟩

end Sys2Proof.Machine
end

section
/-! PROOFS. What each command leaves unchanged, and the configuration through a step (10_state R30, R33 to R49). -/

namespace Sys2Proof.Machine

/-- What a command leaves unchanged between two states (10_state R33 to R49): each clause names the commands that may
write what it keeps. -/
structure CommandKeeps (i : Instr) (s t : State) : Prop where
  cfg : t.cfg = s.cfg
  pending : t.pending = s.pending
  reply : t.reply = s.reply
  gb : t.gb = s.gb
  ph : t.ph = s.ph
  sh : t.sh = s.sh
  res : (∀ b a n, i ≠ .readBits b a n) → t.res = s.res ∧ t.status.resValid = s.status.resValid
  huff : (∀ b m, i ≠ .huff b m) →
    t.huffSym = s.huffSym ∧ t.huffLen = s.huffLen ∧ t.status.huffValid = s.status.huffValid
  cur : (∀ b n, i ≠ .readBits b true n) → i ≠ .align → (∀ b m, i ≠ .huff b m) → t.cur = s.cur
  maps : (∀ b m, i ≠ .extract b m) → t.map0 = s.map0 ∧ t.map1 = s.map1 ∧
    t.status.map0Valid = s.status.map0Valid ∧ t.status.map1Valid = s.status.map1Valid
  packet : i ≠ .construct →
    t.baqMode = s.baqMode ∧ t.testMode = s.testMode ∧ t.fmt = s.fmt ∧ t.nq = s.nq ∧ t.nb = s.nb
  pktValid : i ≠ .construct → (∀ b m, i ≠ .extract b m) → t.status.pktValid = s.status.pktValid
  samples : i ≠ .getSamples → t.out = s.out ∧ t.brc = s.brc ∧ t.thidx = s.thidx ∧ t.ud = s.ud ∧ t.free = s.free ∧
    t.status.udReleased = s.status.udReleased
  cacheValid : (∀ b m, i ≠ .extract b m) → i ≠ .construct → i ≠ .getSamples →
    t.status.cacheValid = s.status.cacheValid

/-- Recording an error writes the error record alone (60_exceptions R325). -/
theorem completeRaise_keeps (i : Instr) (s : State) (e : Raise) : CommandKeeps i s (completeRaise s e) := by
  constructor <;> simp

/-- Completion writes nothing the frame speaks of. -/
theorem CommandKeeps.completeOk {i : Instr} {s u : State} (h : CommandKeeps i s u) : CommandKeeps i s (completeOk u) :=
  ⟨h.cfg, h.pending, h.reply, h.gb, h.ph, h.sh, h.res, h.huff, h.cur, h.maps, h.packet, h.pktValid, h.samples,
    h.cacheValid⟩

/-- The effect of a command stays within its frame. -/
theorem effect_keeps {i : Instr} {s u : State} (h : Effect i s u) : CommandKeeps i s u := by
  cases i with
  | readBits b a n =>
    obtain ⟨v, -, rfl⟩ := h
    cases a with
    | false => constructor <;> simp
    | true => constructor <;> simp
  | align =>
    obtain ⟨-, rfl⟩ := h
    constructor <;> simp
  | huff b m =>
    obtain ⟨sym, l, -, rfl⟩ := h
    constructor <;> simp
  | extract b m =>
    obtain ⟨-, vals, -, rfl⟩ := h
    constructor <;> simp
  | construct =>
    obtain ⟨-, f, -, rfl⟩ := h
    constructor <;> simp
  | getSamples =>
    obtain ⟨-, ⟨-, rfl⟩ | ⟨-, -, out, ic, -, rfl⟩ | ⟨-, -, out, brc, thidx, -, rfl⟩⟩ := h
    · constructor <;> simp
    · constructor <;> simp
    · constructor <;> simp

/-- Every command keeps its frame, whether it succeeds or fails. -/
theorem exec_keeps {i : Instr} {s t : State} (h : exec i s = .next t) : CommandKeeps i s t := by
  rcases exec_cases h with ⟨u, hu, rfl⟩ | ⟨e, rfl, -⟩ | ⟨e, rfl, rfl, -⟩
  · exact (effect_keeps hu).completeOk
  · exact completeRaise_keeps i s e
  · constructor <;> simp

/-- No command touches a buffer but UD. -/
theorem CommandKeeps.selBuf_eq {i : Instr} {s t : State} (h : CommandKeeps i s t) {b : BufSel} (hb : b ≠ .ud) :
    selBuf t b = selBuf s b := by
  cases b with
  | gb => exact h.gb
  | ph => exact h.ph
  | sh => exact h.sh
  | ud => exact absurd rfl hb

/-- Settles O41: the frame of the command's effect, carried through its completion. -/
theorem commandFrame : Obligations.CommandFrame := by
  intro i s t h
  have hk := exec_keeps h
  refine ⟨hk.cfg, hk.pending, hk.reply, hk.gb, hk.ph, hk.sh, fun b a hb => ?_, hk.res, hk.huff, hk.cur, hk.maps,
    hk.packet, hk.pktValid, fun hi => ?_, hk.cacheValid⟩
  · rw [hk.selBuf_eq hb]
  · obtain ⟨hout, hbrc, hthidx, hud, hfree, hrel⟩ := hk.samples hi
    exact ⟨hout, hbrc, hthidx, hud, hfree, hrel, fun a => by rw [hud]⟩

/-- Settles O9: a command keeps the configuration by its frame, every other transaction by its update. -/
theorem configurationFixed : Obligations.ConfigurationFixed := by
  intro s t h
  cases step_cases h with
  | idle _ ht => rw [ht]
  | reset _ ht => rw [ht]; rfl
  | load _ _ _ ht => rw [ht]; rfl
  | command _ _ _ ht => exact (exec_keeps ht).cfg
  | illegal _ _ _ ht => rw [ht]; rfl
  | clear _ _ _ ht => rw [ht]; rfl
  | cursor _ _ ht => rw [ht]; rfl
  | ignored _ _ ht => rw [ht]; rfl
  | read _ _ _ _ ht => rw [ht]; rfl

end Sys2Proof.Machine
end

section
/-! PROOFS. The error record through a step: successes keep it, later errors only add MULTI_ERR (10_state R36). -/

namespace Sys2Proof.Machine

/-- The effect of a command leaves ERR, MULTI_ERR, ERRCODE and ERRPOS alone. -/
theorem effect_record {i : Instr} {s u : State} (h : Effect i s u) :
    u.status.err = s.status.err ∧ u.status.multiErr = s.status.multiErr ∧ u.status.errCode = s.status.errCode ∧
      u.errPos = s.errPos := by
  cases i with
  | readBits b a n =>
    obtain ⟨v, -, rfl⟩ := h
    cases a with
    | false => simp
    | true => simp
  | align =>
    obtain ⟨-, rfl⟩ := h
    simp
  | huff b m =>
    obtain ⟨sym, l, -, rfl⟩ := h
    simp
  | extract b m =>
    obtain ⟨-, vals, -, rfl⟩ := h
    simp
  | construct =>
    obtain ⟨-, f, -, rfl⟩ := h
    simp
  | getSamples =>
    obtain ⟨-, ⟨-, rfl⟩ | ⟨-, -, out, ic, -, rfl⟩ | ⟨-, -, out, brc, thidx, -, rfl⟩⟩ := h
    · simp
    · simp
    · simp

/-- The first error stays recorded: ERR, ERRCODE and ERRPOS are kept, and MULTI_ERR stays set. -/
structure RecordKept (s t : State) : Prop where
  err : t.status.err = true
  errCode : t.status.errCode = s.status.errCode
  errPos : t.errPos = s.errPos
  multiErr : s.status.multiErr = true → t.status.multiErr = true

/-- A state with the same record keeps it. -/
theorem RecordKept.of_eq {s t : State} (he : s.status.err = true) (h1 : t.status.err = s.status.err)
    (h2 : t.status.multiErr = s.status.multiErr) (h3 : t.status.errCode = s.status.errCode) (h4 : t.errPos = s.errPos) :
    RecordKept s t :=
  ⟨h1.trans he, h3, h4, fun hm => h2.trans hm⟩

theorem RecordKept.trans {s u t : State} (h : RecordKept s u) (h' : RecordKept u t) : RecordKept s t :=
  ⟨h'.err, h'.errCode.trans h.errCode, h'.errPos.trans h.errPos, fun hm => h'.multiErr (h.multiErr hm)⟩

/-- A later error leaves the first one recorded (60_exceptions R324). -/
theorem completeRaise_recordKept {s : State} (he : s.status.err = true) (e : Raise) :
    RecordKept s (completeRaise s e) := by
  constructor <;> simp +contextual [he]

/-- No command loses the first error. -/
theorem exec_recordKept {i : Instr} {s t : State} (he : s.status.err = true) (h : exec i s = .next t) :
    RecordKept s t := by
  rcases exec_cases h with ⟨u, hu, rfl⟩ | ⟨e, rfl, -⟩ | ⟨e, rfl, -, -⟩
  · obtain ⟨h1, h2, h3, h4⟩ := effect_record hu
    exact .of_eq he h1 h2 h3 h4
  · exact completeRaise_recordKept he e
  · have hs : RecordKept s (scrambleSide s) := .of_eq he rfl rfl rfl rfl
    exact hs.trans (completeRaise_recordKept hs.err e)

/-- Settles O49: every transaction but the two clearing ones leaves the record, and a command only adds MULTI_ERR. -/
theorem errorRecordSticky : Obligations.ErrorRecordSticky := by
  intro s t he h hreset hclear
  have hstart : ∀ rest, RecordKept s (startCommand (takeNext s rest)) := fun _ => .of_eq he rfl rfl rfl rfl
  suffices hk : RecordKept s t from ⟨hk.err, hk.errCode, hk.errPos, hk.multiErr⟩
  cases step_cases h with
  | idle _ ht => rw [ht]; exact .of_eq he rfl rfl rfl rfl
  | reset hp _ => simp [hp] at hreset
  | load _ _ _ ht => rw [ht]; exact .of_eq he rfl rfl rfl rfl
  | command _ _ _ ht => exact (hstart _).trans (exec_recordKept he ht)
  | illegal _ _ _ ht => rw [ht]; exact (hstart _).trans (completeRaise_recordKept (hstart _).err _)
  | clear hp _ hv _ => exact absurd (by rw [hp]; rfl) (hclear _ hv)
  | cursor _ _ ht => rw [ht]; exact .of_eq he rfl rfl rfl rfl
  | ignored _ _ ht => rw [ht]; exact .of_eq he rfl rfl rfl rfl
  | read _ _ _ _ ht => rw [ht]; exact .of_eq he rfl rfl rfl rfl

end Sys2Proof.Machine
end

section
/-! PROOFS. The invariants of 10_state R52 through a step: all but BUSY = 0 hold inside a command too. -/

namespace Sys2Proof.Machine

/-- The invariants of 10_state R52 but for BUSY, which is 1 while a command runs. -/
structure ConsistentRunning (s : State) : Prop where
  cached_packet : s.status.cacheValid = true → s.status.pktValid = true
  packet_maps : s.status.pktValid = true → s.status.map0Valid = true ∧ s.status.map1Valid = true
  cached_released : s.status.cacheValid = true → s.status.udReleased = true ∧ s.ud.len = 0#32
  no_error : s.status.err = false → s.status.multiErr = false ∧ s.status.errCode = 0#4 ∧ s.errPos = 0#32

theorem State.Consistent.running {s : State} (h : s.Consistent) : ConsistentRunning s :=
  ⟨h.cached_packet, h.packet_maps, h.cached_released, h.no_error⟩

theorem ConsistentRunning.consistent {s : State} (h : ConsistentRunning s) (hb : s.status.busy = false) :
    s.Consistent :=
  ⟨hb, h.cached_packet, h.packet_maps, h.cached_released, h.no_error⟩

/-- A command that ends without error sets BUSY to 0. -/
theorem ConsistentRunning.completeOk {u : State} (h : ConsistentRunning u) : (completeOk u).Consistent :=
  ⟨rfl, h.cached_packet, h.packet_maps, h.cached_released, h.no_error⟩

/-- A command that raises sets BUSY to 0 and ERR to 1, which frees the rest of the record. -/
theorem ConsistentRunning.completeRaise {s : State} (h : ConsistentRunning s) (e : Raise) :
    (completeRaise s e).Consistent :=
  ⟨rfl, h.cached_packet, h.packet_maps, h.cached_released, fun he => by simp at he⟩

/-- The effect of a command keeps the invariants: EXTRACT drops packet and cache, CONSTRUCT checked the maps, and
GET_SAMPLES releases UD under a valid packet. -/
theorem effect_consistentRunning {i : Instr} {s u : State} (hs : ConsistentRunning s) (h : Effect i s u) :
    ConsistentRunning u := by
  cases i with
  | readBits b a n =>
    obtain ⟨v, -, rfl⟩ := h
    cases a with
    | false => exact ⟨hs.cached_packet, hs.packet_maps, hs.cached_released, hs.no_error⟩
    | true => exact ⟨hs.cached_packet, hs.packet_maps, hs.cached_released, hs.no_error⟩
  | align =>
    obtain ⟨-, rfl⟩ := h
    exact ⟨hs.cached_packet, hs.packet_maps, hs.cached_released, hs.no_error⟩
  | huff b m =>
    obtain ⟨sym, l, -, rfl⟩ := h
    exact ⟨hs.cached_packet, hs.packet_maps, hs.cached_released, hs.no_error⟩
  | extract b m =>
    obtain ⟨-, vals, -, rfl⟩ := h
    exact ⟨by simp, by simp, by simp, hs.no_error⟩
  | construct =>
    obtain ⟨hmaps, f, -, rfl⟩ := h
    exact ⟨by simp, fun _ => hmaps, by simp, hs.no_error⟩
  | getSamples =>
    obtain ⟨hpkt, ⟨-, rfl⟩ | ⟨-, -, out, ic, -, rfl⟩ | ⟨-, -, out, brc, thidx, -, rfl⟩⟩ := h
    · exact hs
    · exact ⟨fun _ => hpkt, hs.packet_maps, fun _ => ⟨rfl, rfl⟩, hs.no_error⟩
    · exact ⟨fun _ => hpkt, hs.packet_maps, fun _ => ⟨rfl, rfl⟩, hs.no_error⟩

/-- Every command ends in a consistent state. -/
theorem exec_consistent {i : Instr} {s t : State} (hs : ConsistentRunning s) (h : exec i s = .next t) : t.Consistent := by
  rcases exec_cases h with ⟨u, hu, rfl⟩ | ⟨e, rfl, -⟩ | ⟨e, rfl, -, -⟩
  · exact (effect_consistentRunning hs hu).completeOk
  · exact hs.completeRaise e
  · have hscr : ConsistentRunning (scrambleSide s) :=
      ⟨hs.cached_packet, hs.packet_maps, hs.cached_released, hs.no_error⟩
    exact hscr.completeRaise e

/-- A cleared state is consistent: every flag is 0. -/
theorem cleared_consistent (c : Config) : (State.cleared c).Consistent := by
  constructor <;> simp [State.cleared, Status.cleared]

theorem resetCore_consistent (s : State) : (resetCore s).Consistent := by
  obtain ⟨hb, h1, h2, h3, h4⟩ := cleared_consistent s.cfg
  exact ⟨hb, h1, h2, h3, h4⟩

/-- LOAD keeps the invariants: of PH, SH and UD it drops packet and cache, of GB it changes nothing they speak of. -/
theorem loadBuffer_consistent {s : State} (h : s.Consistent) (b : BufSel) (bytes : List Byte) :
    (loadBuffer s b bytes).Consistent := by
  cases b with
  | gb =>
    refine ⟨h.idle, ?_, ?_, ?_, h.no_error⟩
    · simpa using h.cached_packet
    · simpa using h.packet_maps
    · simpa using h.cached_released
  | ph => exact ⟨h.idle, by simp, by simp, by simp, h.no_error⟩
  | sh => exact ⟨h.idle, by simp, by simp, by simp, h.no_error⟩
  | ud => exact ⟨h.idle, by simp, by simp, by simp, h.no_error⟩

theorem clearErr_consistent {s : State} (h : s.Consistent) : (clearErr s).Consistent :=
  ⟨h.idle, h.cached_packet, h.packet_maps, h.cached_released, fun _ => ⟨rfl, rfl, rfl⟩⟩

theorem takeNext_consistent {s : State} (h : s.Consistent) (rest : List Transaction) : (takeNext s rest).Consistent :=
  ⟨h.idle, h.cached_packet, h.packet_maps, h.cached_released, h.no_error⟩

theorem startCommand_consistentRunning {s : State} (h : s.Consistent) : ConsistentRunning (startCommand s) :=
  ⟨h.cached_packet, h.packet_maps, h.cached_released, h.no_error⟩

/-- Settles O43: each transaction keeps the invariants, a command through the invariants that hold while it runs. -/
theorem stepKeepsConsistent : Obligations.StepKeepsConsistent := by
  refine ⟨cleared_consistent _, fun s t hs h => ?_⟩
  have hn := takeNext_consistent hs
  cases step_cases h with
  | idle _ ht => rw [ht]; exact hs
  | reset _ ht => rw [ht]; exact resetCore_consistent _
  | load _ _ _ ht => rw [ht]; exact loadBuffer_consistent (hn _) _ _
  | command _ _ _ ht => exact exec_consistent (startCommand_consistentRunning (hn _)) ht
  | illegal _ _ _ ht => rw [ht]; exact (startCommand_consistentRunning (hn _)).completeRaise _
  | clear _ _ _ ht => rw [ht]; exact clearErr_consistent (hn _)
  | cursor _ _ ht =>
    rw [ht]
    exact ⟨hs.idle, hs.cached_packet, hs.packet_maps, hs.cached_released, hs.no_error⟩
  | ignored _ _ ht => rw [ht]; exact hn _
  | read _ _ _ _ ht =>
    rw [ht]
    exact ⟨hs.idle, hs.cached_packet, hs.packet_maps, hs.cached_released, hs.no_error⟩

end Sys2Proof.Machine
end

section
/-! PROOFS. The buffers through a step: capacity, canonical form, and what a LOAD leaves (10_state R44, R45). -/

namespace Sys2Proof.Machine

theorem bufLen_bufferOf_le (bytes : List Byte) : bufLen (bufferOf bytes) ≤ bytes.length := by
  simp only [bufLen, bufferOf, BitVec.toNat_ofNat]
  exact Nat.mod_le _ _

theorem bufferOf_ok {cap : Nat} {bytes : List Byte} (h : bytes.length ≤ cap) : BufferOk cap (bufferOf bytes) :=
  ⟨(bufLen_bufferOf_le bytes).trans h, bufferOf_wf bytes⟩

theorem releasedBuffer_ok (cap n : Nat) : BufferOk cap (releasedBuffer n) := ⟨Nat.zero_le _, releasedBuffer_wf n⟩

theorem emptyBuffer_ok (cap : Nat) : BufferOk cap Buffer.empty := ⟨Nat.zero_le _, emptyBuffer_wf⟩

/-- A cleared state has empty buffers. -/
theorem cleared_buffersOk (c : Config) : (State.cleared c).BuffersOk :=
  ⟨emptyBuffer_ok _, emptyBuffer_ok _, emptyBuffer_ok _, emptyBuffer_ok _⟩

/-- A command keeps UD or releases it. -/
theorem exec_ud {i : Instr} {s t : State} (h : exec i s = .next t) : t.ud = s.ud ∨ t.ud = releasedBuffer s.free := by
  by_cases hi : i = .getSamples
  · subst hi
    rcases exec_cases h with ⟨u, ⟨-, hu⟩, rfl⟩ | ⟨e, rfl, -⟩ | ⟨e, rfl, -, -⟩
    · obtain ⟨-, rfl⟩ | ⟨-, -, out, ic, -, rfl⟩ | ⟨-, -, out, brc, thidx, -, rfl⟩ := hu
      · exact .inl rfl
      · exact .inr rfl
      · exact .inr rfl
    · exact .inl rfl
    · exact .inl rfl
  · obtain ⟨-, -, -, hud, -⟩ := (exec_keeps h).samples hi
    exact .inl hud

/-- The invariant reads the configuration and the buffers alone. -/
theorem State.BuffersOk.of_eq {s t : State} (h : s.BuffersOk) (hc : t.cfg = s.cfg) (hg : t.gb = s.gb)
    (hp : t.ph = s.ph) (hs : t.sh = s.sh) (hu : BufferOk s.cfg.capUd t.ud) : t.BuffersOk := by
  constructor
  · rw [hc, hg]; exact h.gb_ok
  · rw [hc, hp]; exact h.ph_ok
  · rw [hc, hs]; exact h.sh_ok
  · rw [hc]; exact hu

/-- Every command leaves every buffer within its capacity and in canonical form. -/
theorem exec_buffersOk {i : Instr} {s t : State} (hs : s.BuffersOk) (h : exec i s = .next t) : t.BuffersOk := by
  have hk := exec_keeps h
  refine hs.of_eq hk.cfg hk.gb hk.ph hk.sh ?_
  rcases exec_ud h with hu | hu
  · rw [hu]; exact hs.ud_ok
  · rw [hu]; exact releasedBuffer_ok _ _

/-- A LOAD within the capacity replaces one buffer by one that fits. -/
theorem loadBuffer_buffersOk {s : State} (hs : s.BuffersOk) {b : BufSel} {bytes : List Byte}
    (hl : bytes.length ≤ capacity s.cfg b) : (loadBuffer s b bytes).BuffersOk := by
  cases b with
  | gb => exact ⟨bufferOf_ok hl, hs.ph_ok, hs.sh_ok, hs.ud_ok⟩
  | ph => exact ⟨hs.gb_ok, bufferOf_ok hl, hs.sh_ok, hs.ud_ok⟩
  | sh => exact ⟨hs.gb_ok, hs.ph_ok, bufferOf_ok hl, hs.ud_ok⟩
  | ud => exact ⟨hs.gb_ok, hs.ph_ok, hs.sh_ok, bufferOf_ok hl⟩

/-- Settles O44: a LOAD fits by its duty, a release is empty, and nothing else writes a buffer. -/
theorem stepKeepsBuffers : Obligations.StepKeepsBuffers := by
  intro s t hs h
  have hkeep : ∀ u : State, u.cfg = s.cfg → u.gb = s.gb → u.ph = s.ph → u.sh = s.sh → u.ud = s.ud → u.BuffersOk :=
    fun u hc hg hp hsh hu => hs.of_eq hc hg hp hsh (hu ▸ hs.ud_ok)
  cases step_cases h with
  | idle _ ht => rw [ht]; exact hs
  | reset _ ht => rw [ht]; exact (cleared_buffersOk _).of_eq rfl rfl rfl rfl (emptyBuffer_ok _)
  | load _ _ hc ht => rw [ht]; exact loadBuffer_buffersOk (hkeep (takeNext s _) rfl rfl rfl rfl rfl) hc
  | command _ _ _ ht => exact exec_buffersOk (hkeep (startCommand (takeNext s _)) rfl rfl rfl rfl rfl) ht
  | illegal _ _ _ ht => rw [ht]; exact hkeep _ rfl rfl rfl rfl rfl
  | clear _ _ _ ht => rw [ht]; exact hkeep _ rfl rfl rfl rfl rfl
  | cursor _ _ ht => rw [ht]; exact hkeep _ rfl rfl rfl rfl rfl
  | ignored _ _ ht => rw [ht]; exact hkeep _ rfl rfl rfl rfl rfl
  | read _ _ _ _ ht => rw [ht]; exact hkeep _ rfl rfl rfl rfl rfl

/-- The packet registers of a cleared state are those of a packet of format A with no quads. -/
theorem cleared_packetOk (c : Config) : (State.cleared c).PacketOk where
  map0_fits := mapFits_zeros _
  map1_fits := mapFits_zeros _
  nq_bound := Nat.zero_le _
  nb_eq := (ceilDiv_zero c.blockQ_pos).symm
  fmt_eq := rfl

/-- A cleared state has no valid cache. -/
theorem cleared_cacheOk (c : Config) : (State.cleared c).CacheOk := by
  constructor <;> simp [State.cleared, Status.cleared]

/-- Settles O42: the state after reset is a cleared state, which has every invariant. -/
theorem invariantsAtReset : Obligations.InvariantsAtReset :=
  ⟨cleared_consistent _, cleared_buffersOk _, cleared_packetOk _, cleared_cacheOk _⟩

end Sys2Proof.Machine
end

section
/-! PROOFS. A step by its next transaction, and the transactions that break a duty (10_state R54, 60_exceptions R345, R346). -/

namespace Sys2Proof.Machine

/-- A step with a transaction pending performs it. -/
theorem step_of_pending {s : State} {tr : Transaction} {rest : List Transaction} (hp : s.pending = tr :: rest) :
    step s = transact tr (takeNext s rest) := by
  simp only [step, hostStep, hp]

theorem step_of_idle {s : State} (hp : s.pending = []) : step s = .next s := by
  simp only [step, hostStep, hp]

/-! ## The transactions where they keep their duty -/

section
variable {s : State} (hb : s.status.busy = false)
include hb

theorem transact_load {b : BufSel} {bytes : List Byte} (hl : bytes.length ≤ capacity s.cfg b) :
    transact (.load b bytes) s = .next (loadBuffer s b bytes) := by
  simp [transact, hb, Nat.not_lt.mpr hl]

theorem transact_wr (r : BitVec 6) (v : Word) : transact (.wr r v) s = writeRegister r v s := by
  simp [transact, hb]

theorem transact_command {v : Word} {i : Instr} (hd : decode v = .ok i) :
    transact (.wr 0#6 v) s = exec i (startCommand s) := by
  simp [transact_wr hb, writeRegister, writeCommand, hd]

end

theorem transact_load_next {s t : State} {b : BufSel} {bytes : List Byte} (h : transact (.load b bytes) s = .next t) :
    t = loadBuffer s b bytes := by
  simp only [transact] at h
  split_ifs at h
  cases h
  rfl

theorem transact_command_next {s t : State} {v : Word} {i : Instr} (hd : decode v = .ok i)
    (h : transact (.wr 0#6 v) s = .next t) : exec i (startCommand s) = .next t := by
  cases hb : s.status.busy with
  | false => rwa [transact_command hb hd] at h
  | true => simp [transact, hb] at h

/-! ## Which transactions break their duty -/

/-- Every register write answers a next state. -/
theorem writeRegister_next (r : BitVec 6) (v : Word) (s : State) : ∃ t, writeRegister r v s = .next t := by
  unfold writeRegister
  split_ifs
  · cases hd : decode v with
    | ok i => simpa only [writeCommand, hd] using exec_next i (startCommand s)
    | rejected e =>
      simp only [writeCommand, hd]
      exact ⟨_, rfl⟩
  all_goals exact ⟨_, rfl⟩

theorem mapReadable_iff {s : State} {m : Bool} {i : Nat} :
    mapReadable s m i = true ↔ mapValid s m = true ∧ i < (selTable s.cfg m).length := by
  simp [mapReadable]

theorem outReadable_iff {s : State} {k : Nat} :
    outReadable s k = true ↔ s.status.cacheValid = true ∧ k < 2 * s.nq.toNat := by
  simp [outReadable]

theorem sideReadable_iff {s : State} {b : Nat} :
    sideReadable s b = true ↔ s.status.cacheValid = true ∧ s.fmt = .d ∧ b < s.nb.toNat := by
  simp [sideReadable, and_assoc]

/-- A transaction that keeps its duty is performed. -/
theorem transact_next_of_duty {tr : Transaction} {s : State} (h : HostDuty tr s) : ∃ t, transact tr s = .next t := by
  cases tr with
  | reset => exact ⟨_, rfl⟩
  | load b bytes =>
    obtain ⟨hb, hl⟩ := h
    exact ⟨_, transact_load hb hl⟩
  | wr r v => simpa only [transact_wr h] using writeRegister_next r v s
  | rd r => exact ⟨_, rfl⟩
  | rdMap m i =>
    obtain ⟨hb, hr⟩ := h
    simp [transact, hb, mapReadable_iff.mpr hr]
  | rdOut k =>
    obtain ⟨hb, hr⟩ := h
    simp [transact, hb, outReadable_iff.mpr hr]
  | rdSide b =>
    obtain ⟨hb, hr⟩ := h
    simp [transact, hb, sideReadable_iff.mpr hr]

/-- While BUSY = 1 every transaction but RD and RESET faults (log 16, log 17). -/
theorem transact_fault_of_busy {tr : Transaction} {s : State} (hb : s.status.busy = true) (hr : tr ≠ .reset)
    (hrd : ∀ r, tr ≠ .rd r) : transact tr s = .fault .hostWhileBusy := by
  cases tr with
  | reset => exact absurd rfl hr
  | rd r => exact absurd rfl (hrd r)
  | _ => simp [transact, hb]

/-- A transaction that breaks its duty faults. -/
theorem transact_fault_of_not_duty {tr : Transaction} {s : State} (h : ¬ HostDuty tr s) :
    ∃ f, transact tr s = .fault f := by
  have hr : tr ≠ .reset := fun e => h (e ▸ trivial)
  have hrd : ∀ r, tr ≠ .rd r := fun r e => h (e ▸ trivial)
  cases hb : s.status.busy with
  | true => exact ⟨_, transact_fault_of_busy hb hr hrd⟩
  | false =>
    cases tr with
    | reset => exact absurd rfl hr
    | rd r => exact absurd rfl (hrd r)
    | wr r v => exact absurd hb h
    | load b bytes =>
      have hl : capacity s.cfg b < bytes.length := Nat.not_le.mp fun hl => h ⟨hb, hl⟩
      exact ⟨.loadOverCapacity, by simp [transact, hb, hl]⟩
    | rdMap m i =>
      have hm : ¬ mapReadable s m i = true := fun hm => h ⟨hb, mapReadable_iff.mp hm⟩
      exact ⟨.readInvalidMap, by simp [transact, hb, hm]⟩
    | rdOut k =>
      have ho : ¬ outReadable s k = true := fun ho => h ⟨hb, outReadable_iff.mp ho⟩
      exact ⟨.readInvalidOut, by simp [transact, hb, ho]⟩
    | rdSide b =>
      have hs : ¬ sideReadable s b = true := fun hs => h ⟨hb, sideReadable_iff.mp hs⟩
      exact ⟨.readInvalidSide, by simp [transact, hb, hs]⟩

/-- A duty does not look at the queue. -/
theorem hostDuty_takeNext {tr : Transaction} {s : State} {rest : List Transaction} :
    HostDuty tr (takeNext s rest) ↔ HostDuty tr s := by
  cases tr with
  | rdMap m i => cases m <;> exact Iff.rfl
  | _ => exact Iff.rfl

/-- A step that keeps the host protocol answers a next state. -/
theorem step_next_of_safe {s : State} (h : SafeStep s) : ∃ t, step s = .next t := by
  cases hp : s.pending with
  | nil => exact ⟨s, step_of_idle hp⟩
  | cons tr rest =>
    simp only [SafeStep, hp] at h
    simpa only [step_of_pending hp] using transact_next_of_duty (hostDuty_takeNext.mpr h)

/-- A step that breaks the host protocol faults. -/
theorem step_fault_of_not_safe {s : State} (h : ¬ SafeStep s) : ∃ f, step s = .fault f := by
  cases hp : s.pending with
  | nil => simp [SafeStep, hp] at h
  | cons tr rest =>
    simp only [SafeStep, hp] at h
    simpa only [step_of_pending hp] using transact_fault_of_not_duty (mt hostDuty_takeNext.mp h)

/-- Settles O8: a safe step answers a next state and any other a fault, so neither answers a refusal. -/
theorem stepFaultsOnBrokenDuty : Obligations.StepFaultsOnBrokenDuty := by
  intro s
  by_cases h : SafeStep s
  · obtain ⟨t, ht⟩ := step_next_of_safe h
    simp [ht, h]
  · obtain ⟨f, hf⟩ := step_fault_of_not_safe h
    simp [hf, h]

/-- Settles O5: the CMD write is the next transaction and BUSY is 0, so the step is the command. -/
theorem stepRunsDecodedCommand : Obligations.StepRunsDecodedCommand := by
  intro s v i rest hb hp hd
  have hb' : (takeNext s rest).status.busy = false := hb
  rw [step_of_pending hp, transact_command hb' hd]
  rfl

end Sys2Proof.Machine
end

section
/-! PROOFS. The invalidation events of 10_state R51 and that nothing else clears PKT_VALID or CACHE_VALID. -/

namespace Sys2Proof.Machine

/-- A command sets LAST_OK exactly where it has its effect; a failing one keeps PKT_VALID and CACHE_VALID. -/
theorem exec_outcome {i : Instr} {s t : State} (h : exec i s = .next t) :
    (t.status.lastOk = true ∧ ∃ u, Effect i s u ∧ t = completeOk u) ∨
    (t.status.lastOk = false ∧ t.status.pktValid = s.status.pktValid ∧
      t.status.cacheValid = s.status.cacheValid) := by
  rcases exec_cases h with ⟨u, hu, rfl⟩ | ⟨e, rfl, -⟩ | ⟨e, rfl, -, -⟩
  · exact .inl ⟨rfl, u, hu, rfl⟩
  · exact .inr ⟨rfl, rfl, rfl⟩
  · exact .inr ⟨rfl, rfl, rfl⟩

/-- A successful EXTRACT drops the packet and the cache (10_state R51 b). -/
theorem exec_extract_invalidates {b : BufSel} {m : BitVec 3} {s t : State} (h : exec (.extract b m) s = .next t)
    (hok : t.status.lastOk = true) : t.status.pktValid = false ∧ t.status.cacheValid = false := by
  rcases exec_outcome h with ⟨-, u, ⟨-, vals, -, rfl⟩, rfl⟩ | ⟨hn, -⟩
  · exact ⟨rfl, rfl⟩
  · simp [hn] at hok

/-- A successful CONSTRUCT makes a packet that is not cached (10_state R51 c). -/
theorem exec_construct_validates {s t : State} (h : exec .construct s = .next t) (hok : t.status.lastOk = true) :
    t.status.pktValid = true ∧ t.status.cacheValid = false := by
  rcases exec_outcome h with ⟨-, u, ⟨-, f, -, rfl⟩, rfl⟩ | ⟨hn, -⟩
  · exact ⟨rfl, rfl⟩
  · simp [hn] at hok

/-- Of the commands only a successful EXTRACT clears PKT_VALID. -/
theorem exec_clears_pktValid {i : Instr} {s t : State} (h : exec i s = .next t) (hs : s.status.pktValid = true)
    (ht : t.status.pktValid = false) : (∃ b m, i = .extract b m) ∧ t.status.lastOk = true := by
  rcases exec_outcome h with ⟨hok, u, hu, rfl⟩ | ⟨-, hp, -⟩
  · refine ⟨?_, hok⟩
    by_contra hx
    push Not at hx
    by_cases hc : i = .construct
    · subst hc
      obtain ⟨-, f, -, rfl⟩ := hu
      simp at ht
    · have hk := (exec_keeps h).pktValid hc hx
      rw [ht, hs] at hk
      cases hk
  · simp [hp, hs] at ht

/-- Of the commands only a successful EXTRACT or CONSTRUCT clears CACHE_VALID. -/
theorem exec_clears_cacheValid {i : Instr} {s t : State} (h : exec i s = .next t) (hs : s.status.cacheValid = true)
    (ht : t.status.cacheValid = false) : ((∃ b m, i = .extract b m) ∨ i = .construct) ∧ t.status.lastOk = true := by
  rcases exec_outcome h with ⟨hok, u, hu, rfl⟩ | ⟨-, -, hc⟩
  · refine ⟨?_, hok⟩
    by_contra hx
    push Not at hx
    obtain ⟨hx, hc⟩ := hx
    by_cases hg : i = .getSamples
    · subst hg
      obtain ⟨-, ⟨-, rfl⟩ | ⟨-, -, out, ic, -, rfl⟩ | ⟨-, -, out, brc, thidx, -, rfl⟩⟩ := hu
      · simp [hs] at ht
      · simp at ht
      · simp at ht
    · have hk := (exec_keeps h).cacheValid hx hc hg
      rw [ht, hs] at hk
      cases hk
  · simp [hc, hs] at ht

/-- The transaction invalidates packet and cache: RESET, a LOAD of PH, SH or UD, a successful EXTRACT. -/
def InvalidatesPacket (tr : Transaction) (t : State) : Prop :=
  tr = .reset ∨ (∃ b bytes, tr = .load b bytes ∧ b ≠ .gb) ∨
    ∃ v b m, tr = .wr 0#6 v ∧ decode v = .ok (.extract b m) ∧ t.status.lastOk = true

theorem loadBuffer_invalidates {s : State} {b : BufSel} {bytes : List Byte} (hb : b ≠ .gb) :
    (loadBuffer s b bytes).status.pktValid = false ∧ (loadBuffer s b bytes).status.cacheValid = false := by
  simp [hb]

theorem loadBuffer_gb_keeps_valid (s : State) (bytes : List Byte) :
    (loadBuffer s .gb bytes).status.pktValid = s.status.pktValid ∧
      (loadBuffer s .gb bytes).status.cacheValid = s.status.cacheValid := by
  simp

section
variable {s t : State} {tr : Transaction} {rest : List Transaction} (hp : s.pending = tr :: rest)
  (h : step s = .next t)
include hp h

/-- Nothing else clears PKT_VALID. -/
theorem step_clears_pktValid (hs : s.status.pktValid = true) (ht : t.status.pktValid = false) :
    InvalidatesPacket tr t := by
  cases step_cases h with
  | idle _ e => simp [e, hs] at ht
  | reset hq _ => exact .inl (List.head_eq_of_cons_eq (hp.symm.trans hq))
  | @load _ b bytes hq _ _ e =>
    refine .inr (.inl ⟨b, bytes, List.head_eq_of_cons_eq (hp.symm.trans hq), fun hb => ?_⟩)
    simp [e, hb, hs] at ht
  | @command _ v i hq _ hd e =>
    obtain ⟨⟨b, m, rfl⟩, hok⟩ := exec_clears_pktValid e hs ht
    exact .inr (.inr ⟨v, b, m, List.head_eq_of_cons_eq (hp.symm.trans hq), hd, hok⟩)
  | illegal _ _ _ e => simp [e, hs] at ht
  | clear _ _ _ e => simp [e, hs] at ht
  | cursor _ _ e => simp [e, hs] at ht
  | ignored _ _ e => simp [e, hs] at ht
  | read _ _ _ _ e => simp [e, hs] at ht

/-- Nothing else but a successful CONSTRUCT clears CACHE_VALID. -/
theorem step_clears_cacheValid (hs : s.status.cacheValid = true) (ht : t.status.cacheValid = false) :
    InvalidatesPacket tr t ∨ ∃ v, tr = .wr 0#6 v ∧ decode v = .ok .construct ∧ t.status.lastOk = true := by
  cases step_cases h with
  | idle _ e => simp [e, hs] at ht
  | reset hq _ => exact .inl (.inl (List.head_eq_of_cons_eq (hp.symm.trans hq)))
  | @load _ b bytes hq _ _ e =>
    refine .inl (.inr (.inl ⟨b, bytes, List.head_eq_of_cons_eq (hp.symm.trans hq), fun hb => ?_⟩))
    simp [e, hb, hs] at ht
  | @command _ v i hq _ hd e =>
    have htr := List.head_eq_of_cons_eq (hp.symm.trans hq)
    obtain ⟨⟨b, m, rfl⟩ | rfl, hok⟩ := exec_clears_cacheValid e hs ht
    · exact .inl (.inr (.inr ⟨v, b, m, htr, hd, hok⟩))
    · exact .inr ⟨v, htr, hd, hok⟩
  | illegal _ _ _ e => simp [e, hs] at ht
  | clear _ _ _ e => simp [e, hs] at ht
  | cursor _ _ e => simp [e, hs] at ht
  | ignored _ _ e => simp [e, hs] at ht
  | read _ _ _ _ e => simp [e, hs] at ht

end

/-- Settles O47: the events by the transaction at hand, their completeness by the two lemmas above. -/
theorem invalidationEvents : Obligations.InvalidationEvents := by
  intro s t tr rest hp h
  have htr := h
  rw [step_of_pending hp] at htr
  refine ⟨?_, ?_, ?_, ?_, fun hs ht => step_clears_pktValid hp h hs ht, fun hs ht => ?_⟩
  · rintro b bytes rfl
    rw [transact_load_next htr]
    exact ⟨loadBuffer_invalidates, fun hb => by simp [hb], fun hb => hb ▸ loadBuffer_gb_keeps_valid _ bytes⟩
  · rintro v b m rfl hd hok
    exact exec_extract_invalidates (transact_command_next hd htr) hok
  · rintro v rfl hd hok
    exact exec_construct_validates (transact_command_next hd htr) hok
  · rintro rfl
    cases htr
    exact ⟨rfl, rfl⟩
  · rcases step_clears_cacheValid hp h hs ht with (h1 | h2 | h3) | h4
    · exact .inl h1
    · exact .inr (.inl h2)
    · exact .inr (.inr (.inl h3))
    · exact .inr (.inr (.inr h4))

end Sys2Proof.Machine
end

section
/-! PROOFS. No decoder reads a byte at or beyond LEN (10_state R44): all of them read through ReadBits. -/

namespace Sys2Proof.Machine

/-! ## ReadBits on buffers with the same bytes -/

section
variable {b b' : Buffer} (h : SameBytes b b')
include h

theorem bufBit_sameBytes {k : Nat} (hk : k < 8 * bufLen b) : bufBit b k = bufBit b' k := by
  simp only [bufBit, h.2 (k / 8) (by omega)]

theorem bitsValue_sameBytes {s n : Nat} (hn : s + n ≤ 8 * bufLen b) : bitsValue b s n = bitsValue b' s n := by
  induction n with
  | zero => rfl
  | succ n ih =>
    simp only [bitsValue, ih (by omega), bufBit_sameBytes h (show s + n < 8 * bufLen b by omega)]

/-- The span check keeps ReadBits below the length. -/
theorem readBits_sameBytes (c : Config) (s n : Nat) : readBits c b s n = readBits c b' s n := by
  by_cases hn : s + n ≤ 8 * bufLen b
  · simp only [readBits, ← h.1, bitsValue_sameBytes h hn]
  · simp only [readBits, ← h.1, if_pos (Nat.not_le.mp hn)]

end

/-! ## The decoders read a buffer through ReadBits alone -/

/-- ReadBits answers the same on both buffers, wherever it reads. -/
def ReadAlike (c : Config) (b b' : Buffer) : Prop := ∀ s n, readBits c b s n = readBits c b' s n

section
variable {c : Config} {b b' : Buffer} (h : ReadAlike c b b')
include h

theorem huffLoop_readAlike (t : ModeTables) (p fuel len : Nat) :
    huffLoop c b t p fuel len = huffLoop c b' t p fuel len := by
  induction fuel generalizing len with
  | zero => rfl
  | succ fuel ih => simp only [huffLoop, h p len, ih]

theorem huffDecode_readAlike (m p : Nat) : huffDecode c b m p = huffDecode c b' m p := by
  simp only [huffDecode, huffSearch, h p c.scPlen, huffLoop_readAlike h]

theorem extractFields_readAlike (tab : List Field) (off : Nat) :
    extractFields c b tab off = extractFields c b' tab off := by
  induction tab generalizing off with
  | nil => rfl
  | cons f fs ih => simp only [extractFields, h off f.width, ih]

theorem codesAB_readAlike (n ic : Nat) : codesAB c b n ic = codesAB c b' n ic := by
  induction n generalizing ic with
  | zero => rfl
  | succ n ih => simp only [codesAB, h ic c.abSignBits, h (ic + c.abSignBits) c.abMagBits, ih]

theorem decodeAB_readAlike (nq : Nat) : decodeAB c b nq = decodeAB c b' nq := by
  simp only [decodeAB, componentAB, codesAB_readAlike h]

theorem blockHeader_readAlike (k : Component) (x : DecodeCtx) : blockHeader c b k x = blockHeader c b' k x := by
  cases k with
  | ie => simp only [blockHeader, h x.ic c.brcBits]
  | qe => simp only [blockHeader, h x.ic c.thidxBits]
  | io => rfl
  | qo => rfl

theorem samplesD_readAlike (m n ic : Nat) : samplesD c b m n ic = samplesD c b' m n ic := by
  induction n generalizing ic with
  | zero => rfl
  | succ n ih => simp only [samplesD, h ic 1, huffDecode_readAlike h, ih]

theorem blocksD_readAlike (k : Component) (nq nb left blk : Nat) (x : DecodeCtx) :
    blocksD c b k nq nb left blk x = blocksD c b' k nq nb left blk x := by
  induction left generalizing blk x with
  | zero => rfl
  | succ left ih => simp only [blocksD, blockHeader_readAlike h, samplesD_readAlike h, ih]

theorem decodeD_readAlike (nq nb : Nat) : decodeD c b nq nb = decodeD c b' nq nb := by
  simp only [decodeD, codesD, componentD, blocksD_readAlike h]

end

/-- Settles O13: the span check makes ReadBits alike, and every decoder reads through it. -/
theorem bytesBeyondLengthUnread : Obligations.BytesBeyondLengthUnread := by
  intro c b b' hsame
  have h : ReadAlike c b b' := readBits_sameBytes hsame c
  exact ⟨h, huffDecode_readAlike h, fun tab => extractFields_readAlike h tab 0, decodeAB_readAlike h,
    decodeD_readAlike h⟩

end Sys2Proof.Machine
end

section
/-! PROOFS. What the host's transactions do: LOAD, RESET, register writes and reads (60_exceptions R345, 10_state R33 to R55). -/

namespace Sys2Proof.Machine

/-! ## LOAD -/

theorem capacity_lt (c : Config) (b : BufSel) : 8 * capacity c b + 15 < 2 ^ 32 := by
  obtain ⟨⟨hgb, hph, hsh, hud⟩, -⟩ := c.capacity_bounds
  cases b with
  | gb => exact hgb
  | ph => exact hph
  | sh => exact hsh
  | ud => exact hud

/-- A byte string within a capacity has its length in LEN. -/
theorem bufLen_bufferOf {c : Config} {b : BufSel} {bytes : List Byte} (h : bytes.length ≤ capacity c b) :
    bufLen (bufferOf bytes) = bytes.length := by
  have hc := capacity_lt c b
  simp only [bufLen, bufferOf, BitVec.toNat_ofNat]
  exact Nat.mod_eq_of_lt (by omega)

/-- A loaded byte is read back as the eight bits at its offset (40_bit_reader R142). -/
theorem readBits_bufferOf (c : Config) {bytes : List Byte} (hl : bufLen (bufferOf bytes) = bytes.length) {j : Nat}
    {x : Byte} (hj : bytes[j]? = some x) : readBits c (bufferOf bytes) (8 * j) 8 = .ok x.toNat := by
  have hlt : j < bytes.length := (List.getElem?_eq_some_iff.mp hj).1
  rw [readBits_ok (by omega) (by omega) (by omega), bitsValue_byte, readByte_bufferOf, List.getD, hj]
  rfl

@[simp] theorem selBuf_loadBuffer_same (s : State) (b : BufSel) (bytes : List Byte) :
    selBuf (loadBuffer s b bytes) b = bufferOf bytes := by
  cases b <;> rfl

theorem selBuf_loadBuffer_of_ne (s : State) {b b' : BufSel} (hb : b' ≠ b) (bytes : List Byte) :
    selBuf (loadBuffer s b bytes) b' = selBuf s b' := by
  cases b' <;> simp [selBuf, hb.symm]

/-- Settles O53: the LOAD keeps its duty, and the buffer it leaves is the byte string's. -/
theorem loadReplacesBuffer : Obligations.LoadReplacesBuffer := by
  intro s b bytes rest hb hl hp
  have hb' : (takeNext s rest).status.busy = false := hb
  refine ⟨loadBuffer (takeNext s rest) b bytes, ?_, ?_, ?_, ?_, rfl⟩
  · rw [step_of_pending hp, transact_load hb' hl]
  · rw [selBuf_loadBuffer_same, bufLen_bufferOf hl]
  · intro j x hj
    rw [selBuf_loadBuffer_same]
    exact readBits_bufferOf _ (bufLen_bufferOf hl) hj
  · intro b' hne
    rw [selBuf_loadBuffer_of_ne _ hne]
    cases b' <;> rfl

/-! ## RESET -/

theorem statusWord_cleared : statusWord Status.cleared = 0#32 := by decide

theorem huffWord_cleared (c : Config) : huffWord (State.cleared c) = 0#32 := by
  simp only [huffWord, State.cleared]
  decide

theorem modeWord_cleared (c : Config) : modeWord (State.cleared c) = 0#32 := by
  simp only [modeWord, State.cleared]
  decide

/-- A cleared state reads 0 in every register. -/
theorem readRegister_cleared (c : Config) (r : BitVec 6) : readRegister (State.cleared c) r = 0#32 := by
  unfold readRegister
  split
  case h_1 => exact statusWord_cleared
  case h_5 => exact BitVec.extractLsb'_zero
  case h_6 => exact huffWord_cleared c
  case h_7 => exact modeWord_cleared c
  all_goals rfl

/-- Settles O51: RESET is the cleared state with queue and counter kept, and a cleared state reads 0 everywhere. -/
theorem resetClearsCore : Obligations.ResetClearsCore := by
  refine ⟨fun s rest hp => ?_, rfl, fun c => ⟨statusWord_cleared, rfl, readRegister_cleared c⟩⟩
  rw [step_of_pending hp]
  rfl

/-! ## Register writes -/

/-- Settles O54: with BUSY = 0 the write is performed, and its register number decides what it does. -/
theorem hostRegisterWrites : Obligations.HostRegisterWrites := by
  intro s r v rest hb hp h0
  have hb' : (takeNext s rest).status.busy = false := hb
  rw [step_of_pending hp, transact_wr hb']
  refine ⟨?_, ?_, ?_, ?_⟩
  · rintro rfl
    rfl
  · rintro rfl hv
    simp only [writeRegister, hv]
    rfl
  · rintro rfl hv
    simp only [writeRegister, hv]
    rfl
  · intro h1 h2
    simp only [writeRegister, if_neg h0, if_neg h1, if_neg h2]
    rfl

/-! ## Register reads -/

/-- CMD and the reserved numbers read 0 (10_state R42, R43). -/
theorem readRegister_of_unreadable (s : State) {r : BitVec 6} (h : r = 0#6 ∨ 14 ≤ r.toNat) :
    readRegister s r = 0#32 := by
  have hr : ∀ n, 1 ≤ n → n ≤ 13 → r.toNat ≠ n := by
    intro n h1 h13 hn
    rcases h with rfl | h
    · simp at hn; omega
    · omega
  unfold readRegister
  split
  case h_14 => rfl
  all_goals exact absurd ‹_› (hr _ (by omega) (by omega))

/-- The eleven flags of STATUS stand at bits 10:0 in this order (10_state R36). -/
theorem statusWord_flags (t : Status) :
    (statusWord t).getLsbD 0 = t.busy ∧ (statusWord t).getLsbD 1 = t.err ∧ (statusWord t).getLsbD 2 = t.multiErr ∧
      (statusWord t).getLsbD 3 = t.lastOk ∧ (statusWord t).getLsbD 4 = t.resValid ∧
      (statusWord t).getLsbD 5 = t.huffValid ∧ (statusWord t).getLsbD 6 = t.map0Valid ∧
      (statusWord t).getLsbD 7 = t.map1Valid ∧ (statusWord t).getLsbD 8 = t.pktValid ∧
      (statusWord t).getLsbD 9 = t.cacheValid ∧ (statusWord t).getLsbD 10 = t.udReleased := by
  simp only [statusWord, BitVec.getLsbD_append]
  simp

/-- ERRCODE stands at bits 19:16 between reserved zeros, whatever the flags are (10_state R36). -/
theorem errCode_join_fields (e : BitVec 4) (flags : BitVec 11) :
    let w : Word := 0#12 ++ e ++ 0#5 ++ flags
    w.extractLsb' 11 5 = 0#5 ∧ w.extractLsb' 16 4 = e ∧ w.extractLsb' 20 12 = 0#12 := by
  have := e.isLt
  have := flags.isLt
  simp only [← BitVec.toNat_inj, toNat_field, toNat_join, BitVec.toNat_ofNat]
  omega

/-- HUFF.SYM and HUFF.HLEN stand at bits 7:0 and 15:8 (10_state R35). -/
theorem huffWord_fields (s : State) :
    (huffWord s).extractLsb' 0 8 = s.huffSym ∧ (huffWord s).extractLsb' 8 8 = s.huffLen ∧
      (huffWord s).extractLsb' 16 16 = 0#16 := by
  have := s.huffSym.isLt
  have := s.huffLen.isLt
  simp only [huffWord, ← BitVec.toNat_inj, toNat_field, toNat_join, BitVec.toNat_ofNat]
  omega

/-- BAQ_MODE, TEST_MODE and FMT stand at bits 7:0, 15:8 and 17:16 (10_state R38). -/
theorem modeWord_fields (s : State) :
    (modeWord s).extractLsb' 0 8 = s.baqMode ∧ (modeWord s).extractLsb' 8 8 = s.testMode ∧
      (modeWord s).extractLsb' 16 2 = formatCode s.fmt ∧ (modeWord s).extractLsb' 18 14 = 0#14 := by
  have := s.baqMode.isLt
  have := s.testMode.isLt
  have := (formatCode s.fmt).isLt
  simp only [modeWord, ← BitVec.toNat_inj, toNat_field, toNat_join, BitVec.toNat_ofNat]
  omega

/-- Settles O55: the reply is the register's value, and each register's value shows its fields at their bits. -/
theorem hostRegisterReads : Obligations.HostRegisterReads := by
  intro s r rest hp
  refine ⟨?_, readRegister_of_unreadable s, ?_, ?_, ?_, ?_, ?_, ?huff, ?mode, ?_, ?_, ?_, ?_, ?_, ?_⟩
  · rw [step_of_pending hp]
    rfl
  · rintro rfl
    obtain ⟨h0, h1, h2, h3, h4, h5, h6, h7, h8, h9, h10⟩ := statusWord_flags s.status
    exact ⟨h0, h1, h2, h3, h4, h5, h6, h7, h8, h9, h10, errCode_join_fields s.status.errCode _⟩
  case huff =>
    rintro rfl
    exact huffWord_fields s
  case mode =>
    rintro rfl
    exact modeWord_fields s
  all_goals
    rintro rfl
    rfl

end Sys2Proof.Machine
end

section
/-! PROOFS. The value of a bit field (20_memory R80, R81): its bits most significant first, and the joining of fields. -/

namespace Sys2Proof.Machine

/-- The loop doubles every earlier bit's weight at each turn, so bit `i` of `n` ends at weight `2^(n-1-i)`. -/
theorem bitsValue_eq_sum (b : Buffer) (s n : Nat) :
    bitsValue b s n = ∑ i ∈ Finset.range n, (bufBit b (s + i)).toNat * 2 ^ (n - 1 - i) := by
  induction n with
  | zero => rfl
  | succ n ih =>
    have hdouble : ∀ i ∈ Finset.range n, 2 * ((bufBit b (s + i)).toNat * 2 ^ (n - 1 - i)) =
        (bufBit b (s + i)).toNat * 2 ^ (n - i) := by
      intro i hi
      have hi := Finset.mem_range.mp hi
      rw [show n - i = n - 1 - i + 1 by omega, pow_succ]
      ring
    calc bitsValue b s (n + 1)
        = 2 * bitsValue b s n + (bufBit b (s + n)).toNat := rfl
      _ = (∑ i ∈ Finset.range n, (bufBit b (s + i)).toNat * 2 ^ (n - i)) + (bufBit b (s + n)).toNat := by
          rw [ih, Finset.mul_sum, Finset.sum_congr rfl hdouble]
      _ = ∑ i ∈ Finset.range (n + 1), (bufBit b (s + i)).toNat * 2 ^ (n + 1 - 1 - i) := by
          simp [Finset.sum_range_succ]

/-- Sixteen bits from the start of byte `j` are that byte above the next one. -/
theorem bitsValue_two_bytes (b : Buffer) (j : Nat) :
    bitsValue b (8 * j) 16 = 256 * (readByte b.mem j).toNat + (readByte b.mem (j + 1)).toNat := by
  rw [show (16 : Nat) = 8 + 8 from rfl, bitsValue_add, show 8 * j + 8 = 8 * (j + 1) by omega, bitsValue_byte,
    bitsValue_byte]
  omega

/-- Reads of adjacent fields that fit one width together make the read of the joint field. -/
theorem readBits_add {c : Config} {b : Buffer} {s m n x y : Nat} (hw : m + n ≤ 64)
    (hx : readBits c b s m = .ok x) (hy : readBits c b (s + m) n = .ok y) :
    readBits c b s (m + n) = .ok (x * 2 ^ n + y) := by
  obtain ⟨⟨hm, -⟩, -, rfl⟩ := readBits_ok_iff.mp hx
  obtain ⟨-, hfit, rfl⟩ := readBits_ok_iff.mp hy
  rw [readBits_ok (by omega) hw (by omega), bitsValue_add]

/-- Settles O10: a read in range is the loop's value, and that is the weighted sum of the bits. -/
theorem fieldIsMsbFirst : Obligations.FieldIsMsbFirst := by
  intro c b s n h1 h64 hfit
  rw [readBits_ok h1 h64 hfit, bitsValue_eq_sum]
  rfl

/-- Settles O11: the byte order from the value of two bytes, the splitting law from the joining of reads. -/
theorem mixedWidthsAgree : Obligations.MixedWidthsAgree := by
  refine ⟨fun c b hlen => ?_, fun c b s m n x y _ _ hw hx hy => readBits_add hw hx hy⟩
  rw [readBits_ok (by omega) (by omega) (by omega)]
  exact congrArg _ (bitsValue_two_bytes b 0)

end Sys2Proof.Machine
end

section
/-! PROOFS. The command words: encoding and decoding are inverse, and the words that decode to none are those of
30_encoding R109. -/

namespace Sys2Proof

open Machine

/-! ## Decoding the word of a command -/

/-- Decoding inverts encoding: the fields of a packed word pass every check of R109 and are the operands. -/
theorem decode_encode {i : Instr} (hi : i.wf = true) : decode (encode i) = .ok i := by
  cases i with
  | readBits b a n => simp [decode, encode]
  | align => decide
  | huff b m => simp [decode, encode]
  | extract b t =>
    have ht : ¬ 1 < t.toNat := by simpa [Instr.wf] using hi
    simp [decode, encode, ht]
  | construct => decide
  | getSamples => decide

/-- Settles O1: the fields of a packed word are the fields it was packed from. -/
theorem decodeOfEncode : Obligations.DecodeOfEncode := fun _ => decode_encode

/-- Settles O3: each word evaluated. -/
theorem workedWordsDecode : Obligations.WorkedWordsDecode := by
  unfold Obligations.WorkedWordsDecode
  decide

/-! ## The illegal words -/

/-- The conditions of R109 on the fields of the word, as the decoder checks them. -/
theorem illegalWord_iff_fields (v : Word) :
    IllegalWord v ↔
      ((fieldOp v).toNat = 0 ∨ 6 < (fieldOp v).toNat) ∨
      fieldReserved v ≠ 0 ∨
      ((fieldOp v).toNat = 1 ∧ fieldM v ≠ 0) ∨
      (((fieldOp v).toNat = 3 ∨ (fieldOp v).toNat = 4) ∧ (fieldA v ≠ 0 ∨ fieldN v ≠ 0)) ∨
      (((fieldOp v).toNat = 2 ∨ (fieldOp v).toNat = 5 ∨ (fieldOp v).toNat = 6) ∧ fieldOperands v ≠ 0) ∨
      ((fieldOp v).toNat = 4 ∧ 1 < (fieldM v).toNat) := by
  simp only [IllegalWord, bitField, ← toNat_field, ← BitVec.toNat_inj, Ne]
  rfl

/-- A chain of checks rejects where the first one fails or the rest of the chain rejects. -/
theorem ite_rejected {p : Prop} [Decidable p] {e : DecodeError} {d : Decoded}
    (h : p ∨ ∃ e', d = .rejected e') : ∃ e', (if p then .rejected e else d) = .rejected e' := by
  by_cases hp : p
  · exact ⟨e, if_pos hp⟩
  · rw [if_neg hp]
    exact h.resolve_left hp

theorem decode_of_illegalWord {v : Word} (h : IllegalWord v) : ∃ e, decode v = .rejected e := by
  rw [illegalWord_iff_fields] at h
  exact ite_rejected <| h.imp_right fun h => ite_rejected <| h.imp_right fun h => ite_rejected <|
    h.imp_right fun h => ite_rejected <| h.imp_right fun h => ite_rejected <| h.imp_right fun h =>
    ite_rejected <| .inl h

/-! ## The other words are words of commands -/

/-- A word whose bits below OP are 0 is packed from its opcode alone. -/
theorem packFields_of_operands_zero {v : Word} {op : BitVec 5} (hop : fieldOp v = op) (hr : fieldReserved v = 0)
    (ho : fieldOperands v = 0) : packFields op 0#2 0#3 0#1 0#7 = v := by
  obtain ⟨hb, hm, ha, hn⟩ := (fieldOperands_eq_zero_iff v).mp ho
  rw [← packFields_fields hr, hop, hb, hm, ha, hn]

/-- A word that meets no condition of R109 has one of the six opcodes, and zeros wherever its command has no operand. -/
theorem exists_encode_of_not_illegalWord {v : Word} (h : ¬ IllegalWord v) :
    ∃ i : Instr, i.wf = true ∧ encode i = v := by
  rw [illegalWord_iff_fields] at h
  simp only [not_or, not_and, not_not] at h
  obtain ⟨hop, hr, hm, han, ho, ht⟩ := h
  have hpack := packFields_fields hr
  obtain h | h | h | h | h | h : fieldOp v = 1#5 ∨ fieldOp v = 2#5 ∨ fieldOp v = 3#5 ∨ fieldOp v = 4#5 ∨
      fieldOp v = 5#5 ∨ fieldOp v = 6#5 := by
    simp only [← BitVec.toNat_inj, BitVec.toNat_ofNat]
    omega
  all_goals simp only [h, BitVec.toNat_ofNat] at hm han ho ht hpack
  · exact ⟨.readBits (bselOf (fieldBsel v)) (fieldA v == 1#1) (fieldN v), rfl, by simpa [encode, hm] using hpack⟩
  · exact ⟨.align, rfl, packFields_of_operands_zero h hr (ho (by decide))⟩
  · exact ⟨.huff (bselOf (fieldBsel v)) (fieldM v), rfl, by simpa [encode, han] using hpack⟩
  · exact ⟨.extract (bselOf (fieldBsel v)) (fieldM v), by simpa [Instr.wf] using ht, by simpa [encode, han] using hpack⟩
  · exact ⟨.construct, rfl, packFields_of_operands_zero h hr (ho (by decide))⟩
  · exact ⟨.getSamples, rfl, packFields_of_operands_zero h hr (ho (by decide))⟩

/-- Settles O2: a word that decodes is not illegal, so it is the word of a command, and that one it decodes to. -/
theorem decodedWordIsEncoding : Obligations.DecodedWordIsEncoding := by
  intro v i h
  have hlegal : ¬ IllegalWord v := fun hi => by
    obtain ⟨e, he⟩ := decode_of_illegalWord hi
    simp [he] at h
  obtain ⟨j, hj, rfl⟩ := exists_encode_of_not_illegalWord hlegal
  obtain rfl : j = i := by simpa [decode_encode hj] using h
  exact ⟨hj, rfl⟩

end Sys2Proof

namespace Sys2Proof.Machine

/-- A CMD write of a word that decodes to none records IllegalCommand with the word. -/
theorem transact_illegal {s : State} (hb : s.status.busy = false) {v : Word} {e : DecodeError}
    (hd : decode v = .rejected e) :
    transact (.wr 0#6 v) s = .next (completeRaise (startCommand s) ⟨.illegalCommand, v.toNat⟩) := by
  simp [transact_wr hb, writeRegister, writeCommand, hd]

/-- Settles O4: an illegal word is rejected and recorded; any other word is the word of a command. -/
theorem illegalWordOnlyRecorded : Obligations.IllegalWordOnlyRecorded := by
  refine fun v => ⟨fun hv s rest hb hp => ?_, fun hv => ?_⟩
  · obtain ⟨e, hd⟩ := decode_of_illegalWord hv
    have hb' : (takeNext s rest).status.busy = false := hb
    rw [step_of_pending hp, transact_illegal hb' hd]
    simp [completeRaise, statusRaised, startCommand, takeNext, errCode, hb]
  · obtain ⟨i, hi, rfl⟩ := exists_encode_of_not_illegalWord hv
    exact ⟨i, hi, rfl, decode_encode hi⟩

end Sys2Proof.Machine
end

section
/-! PROOFS. A whole Type D decode as one trace of contexts through the four components (44_type_d_path R260, R265). -/

namespace Sys2Proof.Machine

/-! ## Reconstruction and interleaving, quad by quad -/

/-- The reconstruction answers exactly the S-values of the codes, each under the side information of its block. -/
theorem reconFrom_ok (c : Config) (x : DecodeCtx) (K : Nat → Code) (n q : Nat) (vs : List SVal) :
    reconFrom c x ((List.range' q n).map K) q = .ok vs ↔ ∃ V : Nat → SVal, vs = (List.range' q n).map V ∧
      ∀ i, q ≤ i → i < q + n →
        reconD c (brcAt x.brc (i / c.blockQ)).toNat (thidxAt x.thidx (i / c.blockQ)).toNat (K i) = .ok (V i) := by
  induction n generalizing q vs with
  | zero =>
    simp only [List.range'_zero, List.map_nil, reconFrom, Except.ok.injEq]
    constructor
    · rintro rfl
      exact ⟨fun _ => .int 0, rfl, fun i _ _ => by omega⟩
    · rintro ⟨V, rfl, -⟩
      rfl
  | succ n ih =>
    simp only [List.range'_succ, List.map_cons, reconFrom]
    constructor
    · intro h
      split at h
      · cases h
      next v hv =>
      split at h
      · cases h
      next vs' hvs =>
      cases h
      obtain ⟨V, rfl, hV⟩ := (ih _ _).mp hvs
      refine ⟨fun i => if i = q then v else V i, ?_, fun i h1 h2 => ?_⟩
      · simp only [if_true, List.cons.injEq, true_and, List.map_inj_left, List.mem_range'_1]
        intro i hi
        rw [if_neg (by omega)]
      · by_cases hi : i = q
        · simpa only [hi, if_true] using hv
        · simpa only [hi, if_false] using hV i (by omega) (by omega)
    · rintro ⟨V, rfl, hV⟩
      rw [hV q (by omega) (by omega), (ih (q + 1) _).mpr ⟨V, rfl, fun i h1 h2 => hV i (by omega) (by omega)⟩]

/-- Interleaving four components of the same quads gives two samples a quad. -/
theorem interleave_map (qs : List Nat) (V : Component → Nat → SVal) :
    interleave (qs.map (V .ie)) (qs.map (V .io)) (qs.map (V .qe)) (qs.map (V .qo)) =
      qs.flatMap fun q => [(V .ie q, V .qe q), (V .io q, V .qo q)] := by
  induction qs with
  | nil => rfl
  | cons q qs ih => simp only [List.map_cons, interleave, ih, List.flatMap_cons, List.cons_append, List.nil_append]

/-! ## The trace of a packet -/

/-- The context with its cursor at the next word boundary (44_type_d_path R266). -/
def atBoundary (c : Config) (x : DecodeCtx) : DecodeCtx := { x with ic := alignUp c.wordUnit x.ic }

@[simp] theorem atBoundary_brc (c : Config) (x : DecodeCtx) : (atBoundary c x).brc = x.brc := rfl

@[simp] theorem atBoundary_thidx (c : Config) (x : DecodeCtx) : (atBoundary c x).thidx = x.thidx := rfl

/-- `X k q` is the context before quad `q` of component `k`, and `K k q` its code: the components follow each other in
decode order, each from the word boundary after the one before it. -/
structure PacketTrace (c : Config) (ud : Buffer) (nq : Nat) (X : Component → Nat → DecodeCtx)
    (K : Component → Nat → Code) : Prop where
  ie_start : X .ie 0 = ⟨0, [], []⟩
  io_start : X .io 0 = atBoundary c (X .ie nq)
  qe_start : X .qe 0 = atBoundary c (X .io nq)
  qo_start : X .qo 0 = atBoundary c (X .qe nq)
  quads : ∀ k, QuadTrace c ud k nq (X k) (K k)

/-- One value for each component. -/
def byComponent {α : Type} (ie io qe qo : α) : Component → α
  | .ie => ie
  | .io => io
  | .qe => qe
  | .qo => qo

/-- The components decode exactly when there is a trace through the packet. -/
theorem codesD_ok (c : Config) (ud : Buffer) (nq : Nat) (ie io qe qo : List Code) (y : DecodeCtx) :
    codesD c ud nq (ceilDiv nq c.blockQ) = .ok (ie, io, qe, qo, y) ↔ ∃ X K, PacketTrace c ud nq X K ∧
      ie = (List.range nq).map (K .ie) ∧ io = (List.range nq).map (K .io) ∧ qe = (List.range nq).map (K .qe) ∧
      qo = (List.range nq).map (K .qo) ∧ y = atBoundary c (X .qo nq) := by
  unfold codesD
  constructor
  · intro h
    split at h
    · cases h
    next h1 =>
    split at h
    · cases h
    next h2 =>
    split at h
    · cases h
    next h3 =>
    split at h
    · cases h
    next h4 =>
    cases h
    obtain ⟨X1, K1, a1, b1, c1, d1⟩ := (componentD_ok ..).mp h1
    obtain ⟨X2, K2, a2, b2, c2, d2⟩ := (componentD_ok ..).mp h2
    obtain ⟨X3, K3, a3, b3, c3, d3⟩ := (componentD_ok ..).mp h3
    obtain ⟨X4, K4, a4, b4, c4, d4⟩ := (componentD_ok ..).mp h4
    refine ⟨byComponent X1 X2 X3 X4, byComponent K1 K2 K3 K4,
      ⟨a1, a2.trans b1, a3.trans b2, a4.trans b3, fun k => ?_⟩, c1, c2, c3, c4, b4⟩
    cases k with
    | ie => exact d1
    | io => exact d2
    | qe => exact d3
    | qo => exact d4
  · rintro ⟨X, K, ht, rfl, rfl, rfl, rfl, rfl⟩
    have hk : ∀ k, componentD c ud k nq (ceilDiv nq c.blockQ) (X k 0) =
        .ok ((List.range nq).map (K k), atBoundary c (X k nq)) :=
      fun k => (componentD_ok ..).mpr ⟨X k, K k, rfl, rfl, rfl, ht.quads k⟩
    simp only [← ht.ie_start, hk .ie, ← ht.io_start, hk .io, ← ht.qe_start, hk .qe, ← ht.qo_start, hk .qo]

/-- A decode answers exactly when there is a trace through the packet whose codes all have S-values; the side information
is that at its end. -/
theorem decodeD_ok (c : Config) (ud : Buffer) (nq : Nat) (samples : List (SVal × SVal)) (brc : List (BitVec 3))
    (thidx : List (BitVec 8)) :
    decodeD c ud nq (ceilDiv nq c.blockQ) = .ok (samples, brc, thidx) ↔ ∃ X K, PacketTrace c ud nq X K ∧
      brc = (X .qo nq).brc ∧ thidx = (X .qo nq).thidx ∧ ∃ V : Component → Nat → SVal,
        (∀ k q, q < nq →
          reconD c (brcAt brc (q / c.blockQ)).toNat (thidxAt thidx (q / c.blockQ)).toNat (K k q) = .ok (V k q)) ∧
        samples = (List.range nq).flatMap fun q => [(V .ie q, V .qe q), (V .io q, V .qo q)] := by
  unfold decodeD
  constructor
  · intro h
    split at h
    · cases h
    next hcodes =>
    obtain ⟨X, K, ht, rfl, rfl, rfl, rfl, rfl⟩ := (codesD_ok ..).mp hcodes
    simp only [List.range_eq_range'] at h
    split at h
    · cases h
    next h1 =>
    split at h
    · cases h
    next h2 =>
    split at h
    · cases h
    next h3 =>
    split at h
    · cases h
    next h4 =>
    cases h
    obtain ⟨V1, rfl, r1⟩ := (reconFrom_ok ..).mp h1
    obtain ⟨V2, rfl, r2⟩ := (reconFrom_ok ..).mp h2
    obtain ⟨V3, rfl, r3⟩ := (reconFrom_ok ..).mp h3
    obtain ⟨V4, rfl, r4⟩ := (reconFrom_ok ..).mp h4
    refine ⟨X, K, ht, rfl, rfl, byComponent V1 V2 V3 V4, fun k q hq => ?_, ?_⟩
    · cases k with
      | ie => exact r1 q (by omega) (by omega)
      | io => exact r2 q (by omega) (by omega)
      | qe => exact r3 q (by omega) (by omega)
      | qo => exact r4 q (by omega) (by omega)
    · rw [List.range_eq_range', ← interleave_map]
      rfl
  · rintro ⟨X, K, ht, rfl, rfl, V, hV, rfl⟩
    have hk : ∀ k, reconFrom c (atBoundary c (X .qo nq)) ((List.range nq).map (K k)) 0 =
        .ok ((List.range nq).map (V k)) := fun k => by
      rw [List.range_eq_range']
      exact (reconFrom_ok ..).mpr ⟨V k, rfl, fun q _ hq => hV k q (by omega)⟩
    rw [(codesD_ok ..).mpr ⟨X, K, ht, rfl, rfl, rfl, rfl, rfl⟩]
    simp only [hk, interleave_map]
    rfl

end Sys2Proof.Machine
end

section
/-! PROOFS. The side information of a Type D packet: one entry for each block begun, a BRC in IE and a threshold index in
QE (30_encoding R117, 44_type_d_path R262, R263). -/

namespace Sys2Proof.Machine

/-! ## Counting the blocks begun -/

/-- The blocks begun before quad `q + 1` are those up to the block of quad `q`. -/
theorem ceilDiv_succ {B : Nat} (hB : 1 ≤ B) (q : Nat) : ceilDiv (q + 1) B = q / B + 1 := by
  unfold ceilDiv
  rw [show q + 1 + B - 1 = q + B by omega, Nat.add_div_right _ (by omega)]

/-- A quad begins a block exactly when its number is a multiple of BLOCK_Q. -/
theorem ceilDiv_succ_eq_add {B : Nat} (hB : 1 ≤ B) (q : Nat) :
    ceilDiv (q + 1) B = ceilDiv q B + if q % B = 0 then 1 else 0 := by
  cases q with
  | zero => simp [ceilDiv_succ hB, ceilDiv_zero hB]
  | succ q =>
    rw [ceilDiv_succ hB, ceilDiv_succ hB, Nat.succ_div]
    simp only [Nat.dvd_iff_mod_eq_zero]
    omega

theorem ceilDiv_mono {B m n : Nat} (h : m ≤ n) : ceilDiv m B ≤ ceilDiv n B := Nat.div_le_div_right (by omega)

/-- The block of a quad of the packet is one of its blocks. -/
theorem div_lt_ceilDiv {B q n : Nat} (hB : 1 ≤ B) (hq : q < n) : q / B < ceilDiv n B := by
  have h := ceilDiv_mono (B := B) (show q + 1 ≤ n from hq)
  rw [ceilDiv_succ hB] at h
  omega

/-! ## Lists that grow by one entry a block -/

section
variable {α : Type} {B n : Nat} {f g : Nat → List α}

/-- A list that only grows holds its earlier values as prefixes. -/
theorem prefix_of_appends (h : ∀ q, q < n → f (q + 1) = f q ++ g q) {q : Nat} (hq : q ≤ n) : f q <+: f n := by
  induction n, hq using Nat.le_induction with
  | base => exact List.prefix_refl _
  | succ m hm ih =>
    have hstep : f m <+: f (m + 1) := by
      rw [h m (by omega)]
      exact List.prefix_append ..
    exact (ih fun i hi => h i (by omega)).trans hstep

/-- One entry for each block begun. -/
theorem length_of_blocks (hB : 1 ≤ B) (h0 : f 0 = []) (h : ∀ q, q < n → f (q + 1) = f q ++ g q)
    (hg : ∀ q, (g q).length = if q % B = 0 then 1 else 0) {q : Nat} (hq : q ≤ n) : (f q).length = ceilDiv q B := by
  induction q with
  | zero => simp [h0, ceilDiv_zero hB]
  | succ q ih => rw [h q hq, List.length_append, ih (by omega), hg, ceilDiv_succ_eq_add hB]

/-- The entries before quad `q` are those of the blocks begun before it. -/
theorem eq_take_of_blocks (hB : 1 ≤ B) (h0 : f 0 = []) (h : ∀ q, q < n → f (q + 1) = f q ++ g q)
    (hg : ∀ q, (g q).length = if q % B = 0 then 1 else 0) {q : Nat} (hq : q ≤ n) :
    f q = (f n).take (ceilDiv q B) := by
  rw [← length_of_blocks hB h0 h hg hq]
  exact List.prefix_iff_eq_take.mp (prefix_of_appends h hq)

/-- The entries before quad `q + 1` are those before quad `q`, with the entry of its block where the quad begins one. -/
theorem take_ceilDiv_succ (hB : 1 ≤ B) {l : List α} (d : α) {q : Nat} (hl : l.length = ceilDiv n B) (hq : q < n) :
    l.take (ceilDiv (q + 1) B) = l.take (ceilDiv q B) ++ if q % B = 0 then [l.getD (q / B) d] else [] := by
  have hlt : q / B < l.length := hl ▸ div_lt_ceilDiv hB hq
  have hs := ceilDiv_succ_eq_add hB q
  split_ifs at hs ⊢ with hm
  · have hc : ceilDiv q B = q / B := by
      have := ceilDiv_succ hB q
      omega
    rw [hs, hc, List.take_succ_eq_append_getElem hlt, List.getD_eq_getElem _ _ hlt]
  · rw [hs, List.append_nil, Nat.add_zero]

/-- The entry of the block of quad `q` is there once the quad has begun. -/
theorem getD_take_ceilDiv_succ (hB : 1 ≤ B) (l : List α) (d : α) (q : Nat) :
    (l.take (ceilDiv (q + 1) B)).getD (q / B) d = l.getD (q / B) d := by
  have h : q / B < ceilDiv (q + 1) B := div_lt_ceilDiv hB (Nat.lt_succ_self q)
  simp [List.getD, h]

end

/-! ## The side information in the trace of a component -/

section
variable {c : Config} {ud : Buffer} {k : Component} {n : Nat} {X : Nat → DecodeCtx} {K : Nat → Code}
  (h : QuadTrace c ud k n X K)
include h

theorem QuadTrace.brc_succ {q : Nat} (hq : q < n) : (X (q + 1)).brc = (X q).brc ++ readBrc c ud k q (X q).ic := by
  obtain ⟨-, -, sym, len, -, -, hz⟩ := (quadStep_ok ..).mp (h q hq)
  rw [hz]
  rfl

theorem QuadTrace.thidx_succ {q : Nat} (hq : q < n) :
    (X (q + 1)).thidx = (X q).thidx ++ readThidx c ud k q (X q).ic := by
  obtain ⟨-, -, sym, len, -, -, hz⟩ := (quadStep_ok ..).mp (h q hq)
  rw [hz]
  rfl

/-- No component but IE reads a BRC. -/
theorem QuadTrace.brc_const (hk : k ≠ .ie) {q : Nat} (hq : q ≤ n) : (X q).brc = (X 0).brc := by
  induction q with
  | zero => rfl
  | succ q ih => simp [h.brc_succ hq, readBrc, hk, ih (by omega)]

/-- No component but QE reads a threshold index. -/
theorem QuadTrace.thidx_const (hk : k ≠ .qe) {q : Nat} (hq : q ≤ n) : (X q).thidx = (X 0).thidx := by
  induction q with
  | zero => rfl
  | succ q ih => simp [h.thidx_succ hq, readThidx, hk, ih (by omega)]

end

theorem readBrc_ie_length (c : Config) (ud : Buffer) (q ic : Nat) :
    (readBrc c ud .ie q ic).length = if q % c.blockQ = 0 then 1 else 0 := by
  unfold readBrc
  split_ifs <;> simp_all

theorem readThidx_qe_length (c : Config) (ud : Buffer) (q ic : Nat) :
    (readThidx c ud .qe q ic).length = if q % c.blockQ = 0 then 1 else 0 := by
  unfold readThidx
  split_ifs <;> simp_all

/-! ## The side information in the trace of a packet -/

/-- The BRCs read before quad `q` of a component, of those of the packet: IE reads them, the others find them all. -/
def brcBefore (c : Config) (brc : List (BitVec 3)) (q : Nat) : Component → List (BitVec 3)
  | .ie => brc.take (ceilDiv q c.blockQ)
  | .io => brc
  | .qe => brc
  | .qo => brc

/-- The threshold indexes read before quad `q` of a component: QE reads them, QO finds them all. -/
def thidxBefore (c : Config) (thidx : List (BitVec 8)) (q : Nat) : Component → List (BitVec 8)
  | .ie => []
  | .io => []
  | .qe => thidx.take (ceilDiv q c.blockQ)
  | .qo => thidx

theorem brcBefore_of_ne_ie (c : Config) (brc : List (BitVec 3)) (q : Nat) {k : Component} (hk : k ≠ .ie) :
    brcBefore c brc q k = brc := by
  cases k with
  | ie => exact absurd rfl hk
  | _ => rfl

section
variable {c : Config} {ud : Buffer} {nq : Nat} {X : Component → Nat → DecodeCtx} {K : Component → Nat → Code}
  (h : PacketTrace c ud nq X K)
include h

/-- After IE every context holds all BRCs of the packet. -/
theorem PacketTrace.brc_of_ne_ie {k : Component} (hk : k ≠ .ie) {q : Nat} (hq : q ≤ nq) :
    (X k q).brc = (X .ie nq).brc := by
  have hio : (X .io 0).brc = (X .ie nq).brc := by rw [h.io_start, atBoundary_brc]
  have hqe : (X .qe 0).brc = (X .ie nq).brc := by
    rw [h.qe_start, atBoundary_brc, (h.quads .io).brc_const (by decide) le_rfl, hio]
  have hqo : (X .qo 0).brc = (X .ie nq).brc := by
    rw [h.qo_start, atBoundary_brc, (h.quads .qe).brc_const (by decide) le_rfl, hqe]
  rw [(h.quads k).brc_const hk hq]
  cases k with
  | ie => exact absurd rfl hk
  | io => exact hio
  | qe => exact hqe
  | qo => exact hqo

theorem PacketTrace.thidx_end : (X .qo nq).thidx = (X .qe nq).thidx := by
  rw [(h.quads .qo).thidx_const (by decide) le_rfl, h.qo_start, atBoundary_thidx]

theorem PacketTrace.thidx_io {q : Nat} (hq : q ≤ nq) : (X .io q).thidx = [] := by
  rw [(h.quads .io).thidx_const (by decide) hq, h.io_start, atBoundary_thidx,
    (h.quads .ie).thidx_const (by decide) le_rfl, h.ie_start]

theorem PacketTrace.qe_thidx_start : (X .qe 0).thidx = [] := by
  rw [h.qe_start, atBoundary_thidx, h.thidx_io le_rfl]

theorem PacketTrace.brc_length : (X .qo nq).brc.length = ceilDiv nq c.blockQ := by
  rw [h.brc_of_ne_ie (by decide) le_rfl]
  exact length_of_blocks (f := fun q => (X .ie q).brc) c.blockQ_pos (by simp [h.ie_start])
    (fun q => (h.quads .ie).brc_succ) (fun q => readBrc_ie_length c ud q _) le_rfl

theorem PacketTrace.thidx_length : (X .qo nq).thidx.length = ceilDiv nq c.blockQ := by
  rw [h.thidx_end]
  exact length_of_blocks (f := fun q => (X .qe q).thidx) c.blockQ_pos h.qe_thidx_start
    (fun q => (h.quads .qe).thidx_succ) (fun q => readThidx_qe_length c ud q _) le_rfl

/-- Every context of the trace holds the BRCs read so far. -/
theorem PacketTrace.brc_eq (k : Component) {q : Nat} (hq : q ≤ nq) :
    (X k q).brc = brcBefore c (X .qo nq).brc q k := by
  rw [h.brc_of_ne_ie (k := .qo) (by decide) le_rfl]
  by_cases hk : k = .ie
  · subst hk
    exact eq_take_of_blocks (f := fun q => (X .ie q).brc) c.blockQ_pos (by simp [h.ie_start])
      (fun q => (h.quads .ie).brc_succ) (fun q => readBrc_ie_length c ud q _) hq
  · rw [h.brc_of_ne_ie hk hq, brcBefore_of_ne_ie c _ q hk]

/-- Every context of the trace holds the threshold indexes read so far. -/
theorem PacketTrace.thidx_eq (k : Component) {q : Nat} (hq : q ≤ nq) :
    (X k q).thidx = thidxBefore c (X .qo nq).thidx q k := by
  cases k with
  | ie => rw [(h.quads .ie).thidx_const (by decide) hq, h.ie_start]; rfl
  | io => rw [h.thidx_io hq]; rfl
  | qe =>
    rw [h.thidx_end]
    exact eq_take_of_blocks (f := fun q => (X .qe q).thidx) c.blockQ_pos h.qe_thidx_start
      (fun q => (h.quads .qe).thidx_succ) (fun q => readThidx_qe_length c ud q _) hq
  | qo => rw [(h.quads .qo).thidx_const (by decide) hq, thidxBefore, (h.quads .qo).thidx_const (by decide) le_rfl]

end

end Sys2Proof.Machine
end

section
/-! PROOFS. The layout of Type D user data and the trace of its decode are the same thing (30_encoding R117). -/

namespace Sys2Proof.Machine

/-! ## The contexts and codes of a layout -/

/-- The context before quad `q` of a component of the layout. -/
def Layout.ctx (l : Layout) (c : Config) (brc : List (BitVec 3)) (thidx : List (BitVec 8)) (k : Component) (q : Nat) :
    DecodeCtx :=
  ⟨l.cur k q, brcBefore c brc q k, thidxBefore c thidx q k⟩

/-- The code of quad `q` of a component of the layout. -/
def Layout.code (l : Layout) (c : Config) (ud : Buffer) (k : Component) (q : Nat) : Code :=
  ⟨bufBit ud (l.signAt c k q), (l.sym k q).toNat⟩

/-- A BRC that IE has read is that of the packet. -/
theorem brcAt_brcBefore_succ (c : Config) (brc : List (BitVec 3)) (k : Component) (q : Nat) :
    brcAt (brcBefore c brc (q + 1) k) (q / c.blockQ) = brcAt brc (q / c.blockQ) := by
  cases k with
  | ie => exact getD_take_ceilDiv_succ c.blockQ_pos brc 0#3 q
  | _ => rfl

theorem bitVec_ofNat_eq_iff {w v : Nat} (hv : v < 2 ^ w) (x : BitVec w) : BitVec.ofNat w v = x ↔ x.toNat = v := by
  rw [BitVec.toNat_eq_nat, and_iff_right hv, eq_comm]

section
variable {c : Config} {ud : Buffer} {nq : Nat} {brc : List (BitVec 3)} {thidx : List (BitVec 8)}
  (hb : brc.length = ceilDiv nq c.blockQ) (ht : thidx.length = ceilDiv nq c.blockQ)
  {l : Layout} {k : Component} {q : Nat} (hq : q < nq)
include hb ht hq

/-- The side information of a quad is read as laid out exactly when it is there and takes the context before the quad to
that before the next one. -/
theorem sideRead_iff :
    l.SideRead c ud brc thidx k q ↔ SideFits c ud k q (l.cur k q) ∧
      brcBefore c brc q k ++ readBrc c ud k q (l.cur k q) = brcBefore c brc (q + 1) k ∧
      thidxBefore c thidx q k ++ readThidx c ud k q (l.cur k q) = thidxBefore c thidx (q + 1) k := by
  have hbs : brc.take (ceilDiv (q + 1) c.blockQ) = brc.take (ceilDiv q c.blockQ) ++
      if q % c.blockQ = 0 then [brcAt brc (q / c.blockQ)] else [] := take_ceilDiv_succ c.blockQ_pos _ hb hq
  have hts : thidx.take (ceilDiv (q + 1) c.blockQ) = thidx.take (ceilDiv q c.blockQ) ++
      if q % c.blockQ = 0 then [thidxAt thidx (q / c.blockQ)] else [] := take_ceilDiv_succ c.blockQ_pos _ ht hq
  by_cases hm : q % c.blockQ = 0
  · cases k with
    | ie =>
      have hentry (hle : bitsValue ud (l.cur .ie q) c.brcBits ≤ c.brcMax) :=
        bitVec_ofNat_eq_iff (c.brc_fits (bitsValue_lt ..) hle) (brcAt brc (q / c.blockQ))
      simp +contextual [Layout.SideRead, SideFits, brcBefore, thidxBefore, readBrc, readThidx, hm, hbs, hentry,
        and_assoc]
    | qe =>
      have hentry := bitVec_ofNat_eq_iff ((bitsValue_lt ud (l.cur .qe q) c.thidxBits).trans_le
        (Nat.pow_le_pow_right (by decide) c.fieldBits_range.1.2.2)) (thidxAt thidx (q / c.blockQ))
      simp [Layout.SideRead, SideFits, brcBefore, thidxBefore, readBrc, readThidx, hm, hts, hentry]
    | io => simp [Layout.SideRead, SideFits, brcBefore, thidxBefore, readBrc, readThidx]
    | qo => simp [Layout.SideRead, SideFits, brcBefore, thidxBefore, readBrc, readThidx]
  · have hbs : brc.take (ceilDiv (q + 1) c.blockQ) = brc.take (ceilDiv q c.blockQ) := by simpa [hm] using hbs
    have hts : thidx.take (ceilDiv (q + 1) c.blockQ) = thidx.take (ceilDiv q c.blockQ) := by simpa [hm] using hts
    cases k <;> simp [Layout.SideRead, SideFits, brcBefore, thidxBefore, readBrc, readThidx, hm, hbs, hts]

/-- A quad takes the context of the layout to the next one exactly when it is read as laid out, with its own symbol and
code length. -/
theorem quadStep_ctx_iff {a : Code} :
    quadStep c ud k q (l.ctx c brc thidx k q) = .ok (a, l.ctx c brc thidx k (q + 1)) ↔
      l.SideRead c ud brc thidx k q ∧ l.signAt c k q + 1 ≤ 8 * bufLen ud ∧ ∃ sym len,
        huffDecode c ud (brcAt brc (q / c.blockQ)).toNat (l.signAt c k q + 1) = .ok (sym, len) ∧
        a = ⟨bufBit ud (l.signAt c k q), sym.toNat⟩ ∧ l.cur k (q + 1) = l.signAt c k q + 1 + len := by
  rw [quadStep_ok, sideRead_iff hb ht hq]
  simp only [Layout.ctx, afterSide, DecodeCtx.mk.injEq]
  rw [← show l.signAt c k q = l.cur k q + sideOffset c k q from rfl]
  constructor
  · rintro ⟨hside, hsign, sym, len, hh, ha, hc, hb', ht'⟩
    rw [← hb', brcAt_brcBefore_succ] at hh
    exact ⟨⟨hside, hb'.symm, ht'.symm⟩, hsign, sym, len, hh, ha, hc⟩
  · rintro ⟨⟨hside, hb', ht'⟩, hsign, sym, len, hh, ha, hc⟩
    rw [← brcAt_brcBefore_succ c brc k, ← hb'] at hh
    exact ⟨hside, hsign, sym, len, hh, ha, hc, hb'.symm, ht'.symm⟩

/-- A quad read as laid out is a step of the trace. -/
theorem Layout.QuadRead.quadStep (h : l.QuadRead c ud brc thidx k q) :
    quadStep c ud k q (l.ctx c brc thidx k q) = .ok (l.code c ud k q, l.ctx c brc thidx k (q + 1)) := by
  obtain ⟨hside, hsign, hcode, hnext⟩ := h
  exact (quadStep_ctx_iff hb ht hq).mpr ⟨hside, hsign, _, _, hcode, rfl, hnext⟩

end

/-! ## From a layout to a trace -/

/-- A layout that is read is a trace of the packet. -/
theorem Layout.packetTrace {c : Config} {ud : Buffer} {nq : Nat} {brc : List (BitVec 3)} {thidx : List (BitVec 8)}
    (hb : brc.length = ceilDiv nq c.blockQ) (ht : thidx.length = ceilDiv nq c.blockQ) {l : Layout}
    (hs : l.Starts c nq) (hr : ∀ k q, q < nq → l.QuadRead c ud brc thidx k q) :
    PacketTrace c ud nq (l.ctx c brc thidx) (l.code c ud) := by
  obtain ⟨hie, hio, hqe, hqo⟩ := hs
  have hb' := List.take_of_length_le hb.le
  have ht' := List.take_of_length_le ht.le
  exact {
    ie_start := by simp [ctx, brcBefore, thidxBefore, hie, ceilDiv_zero c.blockQ_pos]
    io_start := by simp [ctx, atBoundary, brcBefore, thidxBefore, hio, hb']
    qe_start := by simp [ctx, atBoundary, brcBefore, thidxBefore, hqe, ceilDiv_zero c.blockQ_pos]
    qo_start := by simp [ctx, atBoundary, brcBefore, thidxBefore, hqo, ht']
    quads := fun k q hq => (hr k q hq).quadStep hb ht hq }

/-! ## From a trace to a layout -/

/-- The layout a trace goes through, with the S-values `V`. -/
def layoutOf (c : Config) (X : Component → Nat → DecodeCtx) (K : Component → Nat → Code) (V : Component → Nat → SVal) :
    Layout where
  cur k q := (X k q).ic
  sym k q := BitVec.ofNat 8 (K k q).mag
  len k q := (X k (q + 1)).ic - ((X k q).ic + sideOffset c k q + 1)
  val := V

section
variable {c : Config} {ud : Buffer} {nq : Nat} {X : Component → Nat → DecodeCtx} {K : Component → Nat → Code}
  (h : PacketTrace c ud nq X K) (V : Component → Nat → SVal)
include h

theorem PacketTrace.layoutOf_starts : (layoutOf c X K V).Starts c nq :=
  ⟨congrArg DecodeCtx.ic h.ie_start, congrArg DecodeCtx.ic h.io_start, congrArg DecodeCtx.ic h.qe_start,
    congrArg DecodeCtx.ic h.qo_start⟩

theorem PacketTrace.layoutOf_ctx (k : Component) {q : Nat} (hq : q ≤ nq) :
    (layoutOf c X K V).ctx c (X .qo nq).brc (X .qo nq).thidx k q = X k q := by
  rw [Layout.ctx, ← h.brc_eq k hq, ← h.thidx_eq k hq]
  rfl

/-- Every quad of a trace is read as laid out, and its code is that of the layout. -/
theorem PacketTrace.layoutOf_quad (k : Component) {q : Nat} (hq : q < nq) :
    (layoutOf c X K V).QuadRead c ud (X .qo nq).brc (X .qo nq).thidx k q ∧
      (layoutOf c X K V).code c ud k q = K k q := by
  have hstep := h.quads k q hq
  rw [← h.layoutOf_ctx V k hq.le, ← h.layoutOf_ctx V k hq,
    quadStep_ctx_iff h.brc_length h.thidx_length hq] at hstep
  obtain ⟨hside, hsign, sym, len, hcode, hK, hnext⟩ := hstep
  have hsym : (layoutOf c X K V).sym k q = sym := by simp [layoutOf, hK]
  have hlen : (layoutOf c X K V).len k q = len := by
    have hdef : (layoutOf c X K V).len k q =
        (layoutOf c X K V).cur k (q + 1) - ((layoutOf c X K V).signAt c k q + 1) := rfl
    rw [hdef, hnext, Nat.add_sub_cancel_left]
  exact ⟨⟨hside, hsign, by rw [hsym, hlen]; exact hcode, by rw [hlen]; exact hnext⟩, by
    rw [Layout.code, hsym, hK]⟩

end

/-- Settles O58: the trace of a decode and a layout are made from each other, with the same side information and codes. -/
theorem typeDLayout : Obligations.TypeDLayout := by
  intro c ud nq samples brc thidx
  rw [decodeD_ok]
  constructor
  · rintro ⟨X, K, h, rfl, rfl, V, hV, rfl⟩
    refine ⟨h.brc_length, h.thidx_length, layoutOf c X K V, h.layoutOf_starts V, fun k q hq => ?_, rfl⟩
    obtain ⟨hread, hcode⟩ := h.layoutOf_quad V k hq
    have hval := hV k q hq
    rw [← hcode] at hval
    exact ⟨hread, hval⟩
  · rintro ⟨hb, ht, l, hs, hl, rfl⟩
    have h := Layout.packetTrace hb ht hs fun k q hq => (hl k q hq).1
    exact ⟨_, _, h, rfl, rfl, l.val, fun k q hq => (hl k q hq).2, rfl⟩

end Sys2Proof.Machine
end

section
/-! PROOFS. AlignUp as the least multiple, and the two commands of the bit reader (40_bit_reader R141, R143, R145). -/

namespace Sys2Proof.Machine

/-! ## AlignUp -/

theorem dvd_alignUp (w c : Nat) : w ∣ alignUp w c := Nat.dvd_mul_left _ _

/-- AlignUp lands less than one unit above its argument, so at no multiple past another at or above it. -/
theorem alignUp_le_of_dvd {w c m : Nat} (hw : 1 ≤ w) (hm : w ∣ m) (hc : c ≤ m) : alignUp w c ≤ m := by
  have hlt := (alignUp_bounds hw c).2
  exact Nat.le_of_lt_add_of_dvd (by omega) (dvd_alignUp w c) hm

theorem alignUp_of_dvd {w c : Nat} (hw : 1 ≤ w) (hc : w ∣ c) : alignUp w c = c :=
  Nat.le_antisymm (alignUp_le_of_dvd hw hc le_rfl) (alignUp_bounds hw c).1

/-- Settles O14: AlignUp is a multiple at or above its argument, less than one unit above it. -/
theorem alignUpIsLeastMultiple : Obligations.AlignUpIsLeastMultiple :=
  ⟨rfl, fun w c hw =>
    ⟨dvd_alignUp w c, (alignUp_bounds hw c).1, fun _ => alignUp_le_of_dvd hw, alignUp_of_dvd hw⟩⟩

/-! ## ALIGN -/

section
variable {s : State}

theorem exec_align_ok (h : alignUp s.cfg.wordUnit s.cur.toNat < 2 ^ 32) :
    exec .align s = .next (completeOk (setCur s (alignUp s.cfg.wordUnit s.cur.toNat))) := by
  rw [exec_align, alignResult, if_neg (Nat.not_le.mpr h), complete_ok]

theorem exec_align_overflow (h : 2 ^ 32 ≤ alignUp s.cfg.wordUnit s.cur.toNat) :
    exec .align s = .next (completeRaise s ⟨.cursorOverflow, s.cur.toNat⟩) := by
  rw [exec_align, alignResult, if_pos h, complete_error]

end

/-- Settles O15: the check of ALIGN decides its outcome, and AlignUp stays less than one unit above CUR. -/
theorem alignResult_holds : Obligations.AlignResult := by
  refine ⟨by decide, fun s => ⟨exec_align_ok, fun h => ⟨exec_align_overflow h, ?_⟩⟩, by decide⟩
  exact h.trans_lt (alignUp_bounds s.cfg.wordUnit_pos _).2

/-! ## READ_BITS -/

section
variable {s : State} {b : BufSel} {n : BitVec 7}

theorem exec_readBits_ok (a : Bool) {v : Nat} (h : readBits s.cfg (selBuf s b) s.cur.toNat n.toNat = .ok v) :
    exec (.readBits b a n) s =
      .next (completeOk (if a then setCur (setRes s v) (s.cur.toNat + n.toNat) else setRes s v)) := by
  simp only [exec_readBits, readBitsResult, h, complete_ok]

theorem exec_readBits_error (a : Bool) {e : Raise}
    (h : readBits s.cfg (selBuf s b) s.cur.toNat n.toNat = .error e) :
    exec (.readBits b a n) s = .next (completeRaise s e) := by
  simp only [exec_readBits, readBitsResult, h, complete_error]

end

theorem readBits_invalidWidth (c : Config) (b : Buffer) (s : Nat) {n : Nat} (h : n = 0 ∨ 64 < n) :
    readBits c b s n = .error ⟨.invalidBitWidth, s⟩ :=
  readBits_error_iff.mpr (.inl ⟨by omega, rfl⟩)

/-- Settles O12: the outcome of ReadBits at CUR is that of the command, with or without the advance of CUR. -/
theorem readBitsResult_holds : Obligations.ReadBitsResult := by
  intro s b a n
  refine ⟨rfl, fun h1 h64 hfit => ?_, fun h => ?_, fun h1 h64 hshort => ?_⟩
  · rw [exec_readBits_ok a (readBits_ok h1 h64 hfit)]
    cases a with
    | false => rfl
    | true => rfl
  · exact exec_readBits_error a (readBits_invalidWidth _ _ _ h)
  · exact exec_readBits_error a (readBits_short h1 h64 hshort)

end Sys2Proof.Machine
end

section
/-! PROOFS. No command wraps the cursor: a successful read bounds it by the buffer, and ALIGN checks it (40_bit_reader R146). -/

namespace Sys2Proof.Machine

/-! ## The bits a Huffman code takes -/

section
variable {c : Config} {buf : Buffer} {b p : Nat} {sym : Byte} {l : Nat}

theorem huffSearch_ok_bounds (hb : b ≤ c.brcMax) (h : huffSearch c buf b p = .ok (sym, l)) :
    l ≤ c.huffMaxLen ∧ p + l ≤ 8 * bufLen buf := by
  obtain ⟨⟨-, hl⟩, hfit, -⟩ := huffLoop_ok h
  have hstart := (c.mode_startLen hb).2
  exact ⟨by omega, hfit⟩

/-- A decoded code has at most 15 bits, of which only those of a shortcut may pass the end of the buffer. -/
theorem huffDecode_ok_bounds (h : huffDecode c buf b p = .ok (sym, l)) : l ≤ 15 ∧ p + l ≤ 8 * bufLen buf + 15 := by
  have hmax := c.huffMaxLen_range.2
  unfold huffDecode at h
  split_ifs at h with hb h4
  · split at h
    · cases h
    · next v hv =>
      split_ifs at h
      · cases h
        have hadv := c.shortcut_range.2.2
        have hfit := (readBits_ok_iff.mp hv).2.1
        omega
      · have := huffSearch_ok_bounds (by omega) h
        omega
  · have := huffSearch_ok_bounds (by omega) h
    omega

end

/-! ## The cursor after a command -/

theorem State.BuffersOk.selBuf_ok {s : State} (h : s.BuffersOk) (b : BufSel) :
    BufferOk (capacity s.cfg b) (selBuf s b) := by
  cases b with
  | gb => exact h.gb_ok
  | ph => exact h.ph_ok
  | sh => exact h.sh_ok
  | ud => exact h.ud_ok

/-- A cursor at most 15 bits past a buffer within its capacity fits CUR (00_scope R12). -/
theorem State.BuffersOk.bits_lt {s : State} (h : s.BuffersOk) (b : BufSel) : 8 * bufLen (selBuf s b) + 15 < 2 ^ 32 := by
  have hlen := (h.selBuf_ok b).1
  have hcap := capacity_lt s.cfg b
  omega

theorem setCur_cur_toNat (s : State) {v : Nat} (h : v < 2 ^ 32) : (setCur s v).cur.toNat = v :=
  (bitVec_ofNat_eq_iff h _).mp rfl

/-- A command that sets LAST_OK has had its effect. -/
theorem exec_effect {i : Instr} {s t : State} (h : exec i s = .next t) (hok : t.status.lastOk = true) :
    ∃ u, Effect i s u ∧ t = completeOk u := by
  rcases exec_outcome h with ⟨-, hu⟩ | ⟨hn, -⟩
  · exact hu
  · simp [hn] at hok

section
variable {s t : State}

theorem exec_readBits_cur (hs : s.BuffersOk) {b : BufSel} {n : BitVec 7} (h : exec (.readBits b true n) s = .next t)
    (hok : t.status.lastOk = true) :
    t.cur.toNat = s.cur.toNat + n.toNat ∧ t.cur.toNat ≤ 8 * bufLen (selBuf s b) := by
  obtain ⟨_, ⟨v, hv, rfl⟩, rfl⟩ := exec_effect h hok
  have hfit := (readBits_ok_iff.mp hv).2.1
  have hbits := hs.bits_lt b
  have hcur := setCur_cur_toNat (setRes s v) (v := s.cur.toNat + n.toNat) (by omega)
  exact ⟨hcur, hcur.trans_le hfit⟩

theorem exec_huff_cur (hs : s.BuffersOk) {b : BufSel} {m : BitVec 3} (h : exec (.huff b m) s = .next t)
    (hok : t.status.lastOk = true) :
    t.cur.toNat = s.cur.toNat + t.huffLen.toNat ∧ t.cur.toNat ≤ 8 * bufLen (selBuf s b) + 15 := by
  obtain ⟨_, ⟨sym, l, hv, rfl⟩, rfl⟩ := exec_effect h hok
  obtain ⟨hl, hfit⟩ := huffDecode_ok_bounds hv
  have hbits := hs.bits_lt b
  have hcur := setCur_cur_toNat (setHuff s sym l) (v := s.cur.toNat + l) (by omega)
  have hlen : (BitVec.ofNat 8 l).toNat = l := (bitVec_ofNat_eq_iff (by omega) _).mp rfl
  exact ⟨hcur.trans (congrArg _ hlen.symm), hcur.trans_le hfit⟩

theorem exec_align_cur (h : exec .align s = .next t) (hok : t.status.lastOk = true) :
    t.cur.toNat = alignUp s.cfg.wordUnit s.cur.toNat := by
  obtain ⟨_, ⟨hlt, rfl⟩, rfl⟩ := exec_effect h hok
  exact setCur_cur_toNat s hlt

end

/-- Settles O16: each of the three commands writes a cursor that fits its 32 bits. -/
theorem cursorNeverWraps : Obligations.CursorNeverWraps := fun _ _ hs hok =>
  ⟨fun _ _ h => exec_readBits_cur hs h hok, fun _ _ h => exec_huff_cur hs h hok, fun h => exec_align_cur h hok⟩

end Sys2Proof.Machine
end

section
/-! PROOFS. The table search, length by length, and what HUFF makes of its answer (41_huffman R171 to R175). -/

namespace Sys2Proof.Machine

/-! ## One length of the search -/

section
variable {c : Config} {buf : Buffer} {t : ModeTables} {p fuel len : Nat}

theorem huffLoop_succ_key {sym : Byte} (h1 : 1 ≤ len) (h64 : len ≤ 64) (hfit : p + len ≤ 8 * bufLen buf)
    (hkey : huffLookup t len (bitsValue buf p len) = some sym) :
    huffLoop c buf t p (fuel + 1) len = .ok (sym, len) := by
  simp only [huffLoop, readBits_ok h1 h64 hfit, hkey]

theorem huffLoop_succ_noKey (h1 : 1 ≤ len) (h64 : len ≤ 64) (hfit : p + len ≤ 8 * bufLen buf)
    (hno : huffLookup t len (bitsValue buf p len) = none) :
    huffLoop c buf t p (fuel + 1) len = huffLoop c buf t p fuel (len + 1) := by
  simp only [huffLoop, readBits_ok h1 h64 hfit, hno]

theorem huffLoop_succ_short (h1 : 1 ≤ len) (h64 : len ≤ 64) (hshort : 8 * bufLen buf < p + len) :
    huffLoop c buf t p (fuel + 1) len = .error ⟨.bufferTooShort, p⟩ := by
  simp only [huffLoop, readBits_short h1 h64 hshort]

/-- The search passes over the lengths without a key and stops at the first one that has a key. -/
theorem huffLoop_shortestKey {sym : Byte} {l : Nat} (h1 : 1 ≤ len) (hmax : len + fuel ≤ 65) (hle : len ≤ l)
    (hlt : l < len + fuel) (hfit : p + l ≤ 8 * bufLen buf) (hkey : huffLookup t l (bitsValue buf p l) = some sym)
    (hno : ∀ k, len ≤ k → k < l → huffLookup t k (bitsValue buf p k) = none) :
    huffLoop c buf t p fuel len = .ok (sym, l) := by
  induction fuel generalizing len with
  | zero => omega
  | succ fuel ih =>
    rcases hle.eq_or_lt with rfl | hgt
    · exact huffLoop_succ_key h1 (by omega) hfit hkey
    · rw [huffLoop_succ_noKey h1 (by omega) (by omega) (hno len le_rfl hgt)]
      exact ih (by omega) (by omega) hgt (by omega) fun k hk => hno k (by omega)

/-- Without a key among the lengths that fit, the last length of the search decides between its two errors. -/
theorem huffLoop_allNoKey (h1 : 1 ≤ len) (hmax : len + fuel ≤ 64)
    (hno : ∀ k, len ≤ k → k ≤ len + fuel → p + k ≤ 8 * bufLen buf → huffLookup t k (bitsValue buf p k) = none) :
    huffLoop c buf t p (fuel + 1) len =
      .error (if 8 * bufLen buf < p + (len + fuel) then ⟨.bufferTooShort, p⟩ else ⟨.huffmanDecodeError, p⟩) := by
  induction fuel generalizing len with
  | zero =>
    split_ifs with hshort
    · exact huffLoop_succ_short h1 hmax hshort
    · exact huffLoop_succ_noKey h1 hmax (by omega) (hno len le_rfl le_rfl (by omega))
  | succ fuel ih =>
    by_cases hshort : 8 * bufLen buf < p + len
    · rw [huffLoop_succ_short h1 (by omega) hshort, if_pos (by omega)]
    · rw [huffLoop_succ_noKey h1 (by omega) (by omega) (hno len le_rfl (by omega) (by omega)),
        ih (by omega) (by omega) fun k hk hk' => hno k (by omega) (by omega), Nat.add_right_comm, Nat.add_assoc]

end

/-! ## The search from START_LEN to HUFF_MAX_LEN -/

section
variable {c : Config} {buf : Buffer} {b p : Nat}

theorem huffSearch_ok_iff (hb : b ≤ c.brcMax) {sym : Byte} {l : Nat} :
    huffSearch c buf b p = .ok (sym, l) ↔
      (c.mode b).startLen ≤ l ∧ l ≤ c.huffMaxLen ∧ p + l ≤ 8 * bufLen buf ∧
      huffLookup (c.mode b) l (bitsValue buf p l) = some sym ∧
      ∀ k, (c.mode b).startLen ≤ k → k < l → huffLookup (c.mode b) k (bitsValue buf p k) = none := by
  obtain ⟨h1, hstart⟩ := c.mode_startLen hb
  have hmax := c.huffMaxLen_range.2
  constructor
  · intro h
    obtain ⟨⟨hle, hlt⟩, hfit, hkey, hno⟩ := huffLoop_ok h
    exact ⟨hle, by omega, hfit, hkey, hno⟩
  · rintro ⟨hle, hlast, hfit, hkey, hno⟩
    exact huffLoop_shortestKey h1 (by omega) hle (by omega) hfit hkey hno

theorem huffSearch_noKey (hb : b ≤ c.brcMax)
    (hno : ∀ k, (c.mode b).startLen ≤ k → k ≤ c.huffMaxLen → p + k ≤ 8 * bufLen buf →
      huffLookup (c.mode b) k (bitsValue buf p k) = none) :
    huffSearch c buf b p =
      .error (if 8 * bufLen buf < p + c.huffMaxLen then ⟨.bufferTooShort, p⟩ else ⟨.huffmanDecodeError, p⟩) := by
  obtain ⟨h1, hstart⟩ := c.mode_startLen hb
  have hmax := c.huffMaxLen_range.2
  obtain ⟨n, hn⟩ := Nat.exists_eq_add_of_le hstart
  have hfuel : c.huffMaxLen + 1 - (c.mode b).startLen = n + 1 := by omega
  simp only [huffSearch, hfuel]
  rw [hn] at hno ⊢
  exact huffLoop_allNoKey h1 (by omega) hno

/-! ## The branches of HuffDecode -/

theorem huffDecode_invalidBrc (h : c.brcMax < b) : huffDecode c buf b p = .error ⟨.invalidBrc, p⟩ := if_pos h

theorem huffDecode_eq_search_of_ne_four (hb : b ≤ c.brcMax) (h4 : b ≠ 4) :
    huffDecode c buf b p = huffSearch c buf b p := by
  rw [huffDecode, if_neg (by omega), if_neg h4]

/-- In mode 4 the shortcut stands before the table (41_huffman R171). -/
theorem huffDecode_four (h4 : 4 ≤ c.brcMax) (hfit : p + c.scPlen ≤ 8 * bufLen buf) :
    huffDecode c buf 4 p = if bitsValue buf p c.scPlen = 0 then .ok (0#8, c.scAdv) else huffSearch c buf 4 p := by
  have hsc := c.shortcut_range.1
  have hmax := c.huffMaxLen_range.2
  rw [huffDecode, if_neg (by omega), if_pos rfl, readBits_ok hsc.1 (by omega) hfit]

theorem huffDecode_four_short (h4 : 4 ≤ c.brcMax) (hshort : 8 * bufLen buf < p + c.scPlen) :
    huffDecode c buf 4 p = .error ⟨.bufferTooShort, p⟩ := by
  have hsc := c.shortcut_range.1
  have hmax := c.huffMaxLen_range.2
  rw [huffDecode, if_neg (by omega), if_pos rfl, readBits_short hsc.1 (by omega) hshort]

/-- Every legal mode comes to the table search where the shortcut does not answer first. -/
theorem huffDecode_eq_search (hb : b ≤ c.brcMax)
    (h : b = 4 → p + c.scPlen ≤ 8 * bufLen buf ∧ bitsValue buf p c.scPlen ≠ 0) :
    huffDecode c buf b p = huffSearch c buf b p := by
  by_cases h4 : b = 4
  · obtain ⟨hfit, hne⟩ := h h4
    subst h4
    rw [huffDecode_four hb hfit, if_neg hne]
  · exact huffDecode_eq_search_of_ne_four hb h4

end

/-- Settles O17: past the shortcut a decode is the table search, which stops at the shortest key. -/
theorem huffmanShortestKey : Obligations.HuffmanShortestKey := by
  intro c buf b p sym l hb h
  rw [huffDecode_eq_search hb h]
  exact huffSearch_ok_iff hb

/-- Settles O18: the mode is checked first, then the shortcut of mode 4, then the search runs out of bits or of lengths. -/
theorem huffmanErrorOrder : Obligations.HuffmanErrorOrder := by
  intro c buf b p
  refine ⟨huffDecode_invalidBrc, ?_, fun hb h hno => ?_⟩
  · rintro hb rfl
    exact huffDecode_four_short hb
  · rw [huffDecode_eq_search hb h]
    exact huffSearch_noKey hb hno

/-- Settles O19: the branches of HuffDecode for mode 4 and for the other legal modes. -/
theorem huffmanShortcut : Obligations.HuffmanShortcut := by
  intro c buf p
  refine ⟨fun h4 hfit => ⟨fun hzero => ?_, fun hne => ?_⟩, huffDecode_four_short,
    fun _ => huffDecode_eq_search_of_ne_four⟩
  · rw [huffDecode_four h4 hfit, if_pos hzero]
  · rw [huffDecode_four h4 hfit, if_neg hne]

/-! ## HUFF -/

section
variable {s : State} {b : BufSel} {m : BitVec 3}

theorem exec_huff_ok {sym : Byte} {l : Nat} (h : huffDecode s.cfg (selBuf s b) m.toNat s.cur.toNat = .ok (sym, l)) :
    exec (.huff b m) s = .next (completeOk (setCur (setHuff s sym l) (s.cur.toNat + l))) := by
  simp only [exec_huff, huffResult, h, complete_ok]

theorem exec_huff_error {e : Raise} (h : huffDecode s.cfg (selBuf s b) m.toNat s.cur.toNat = .error e) :
    exec (.huff b m) s = .next (completeRaise s e) := by
  simp only [exec_huff, huffResult, h, complete_error]

end

/-- Settles O20: HUFF completes with what HuffDecode answers at CUR, whose errors all stand there. -/
theorem huffResult_holds : Obligations.HuffResult := by
  intro s b m
  exact ⟨rfl, fun sym l h => exec_huff_ok h, fun e h => ⟨exec_huff_error h, huffDecode_error h⟩,
    fun h => exec_huff_error (huffDecode_invalidBrc h)⟩

end Sys2Proof.Machine
end

section
/-! PROOFS. The rows of a field table, read one after another, and what EXTRACT makes of them (42_header_extractor R200, R201). -/

namespace Sys2Proof.Machine

/-! ## The rows of a table -/

/-- The bits of a table's rows from offset `off` on, each row zero-extended to 64 bits (42_header_extractor R201). -/
def rowValues (buf : Buffer) : (tab : List Field) → (off : Nat) → List (BitVec 64)
  | [], _ => []
  | f :: fs, off => BitVec.ofNat 64 (bitsValue buf off f.width) :: rowValues buf fs (off + f.width)

@[simp] theorem rowValues_length (buf : Buffer) (tab : List Field) (off : Nat) :
    (rowValues buf tab off).length = tab.length := by
  induction tab generalizing off with
  | nil => rfl
  | cons f fs ih => simp [rowValues, ih]

theorem rowValues_getElem? (buf : Buffer) {tab : List Field} {i : Nat} {f : Field} (h : tab[i]? = some f) (off : Nat) :
    (rowValues buf tab off)[i]? = some (BitVec.ofNat 64 (bitsValue buf (off + tableBits (tab.take i)) f.width)) := by
  induction tab generalizing i off with
  | nil => simp at h
  | cons g gs ih =>
    cases i with
    | zero =>
      cases h
      rfl
    | succ i => simpa [rowValues, tableBits, Nat.add_assoc] using ih h (off + g.width)

section
variable {c : Config} {buf : Buffer} {f : Field} {fs tab : List Field} {off : Nat}

theorem extractFields_cons_ok {v : Nat} {vs : List (BitVec 64)} (hv : readBits c buf off f.width = .ok v)
    (hvs : extractFields c buf fs (off + f.width) = .ok vs) :
    extractFields c buf (f :: fs) off = .ok (BitVec.ofNat 64 v :: vs) := by
  simp only [extractFields, hv, hvs]

theorem extractFields_cons_head_error {e : Raise} (he : readBits c buf off f.width = .error e) :
    extractFields c buf (f :: fs) off = .error e := by
  simp only [extractFields, he]

theorem extractFields_cons_tail_error {v : Nat} {e : Raise} (hv : readBits c buf off f.width = .ok v)
    (he : extractFields c buf fs (off + f.width) = .error e) : extractFields c buf (f :: fs) off = .error e := by
  simp only [extractFields, hv, he]

/-- A buffer that holds the rows answers all of them. -/
theorem extractFields_ok (hw : ∀ f ∈ tab, 1 ≤ f.width ∧ f.width ≤ 64) (hfit : off + tableBits tab ≤ 8 * bufLen buf) :
    extractFields c buf tab off = .ok (rowValues buf tab off) := by
  induction tab generalizing off with
  | nil => rfl
  | cons f fs ih =>
    obtain ⟨⟨h1, h64⟩, hfs⟩ := List.forall_mem_cons.mp hw
    rw [tableBits] at hfit
    exact extractFields_cons_ok (readBits_ok h1 h64 (by omega)) (ih hfs (by omega))

/-- A buffer that ends among the rows raises BufferTooShort at the first row it does not hold. -/
theorem extractFields_short (hw : ∀ f ∈ tab, 1 ≤ f.width ∧ f.width ≤ 64) (hoff : off ≤ 8 * bufLen buf)
    (hshort : 8 * bufLen buf < off + tableBits tab) :
    ∃ i, i < tab.length ∧ off + tableBits (tab.take i) ≤ 8 * bufLen buf ∧
      8 * bufLen buf < off + tableBits (tab.take (i + 1)) ∧
      extractFields c buf tab off = .error ⟨.bufferTooShort, off + tableBits (tab.take i)⟩ := by
  induction tab generalizing off with
  | nil => exact absurd hshort (Nat.not_lt.mpr hoff)
  | cons f fs ih =>
    obtain ⟨⟨h1, h64⟩, hfs⟩ := List.forall_mem_cons.mp hw
    by_cases hrow : off + f.width ≤ 8 * bufLen buf
    · rw [tableBits, ← Nat.add_assoc] at hshort
      obtain ⟨i, hi, hle, hlt, herr⟩ := ih hfs hrow hshort
      refine ⟨i + 1, Nat.succ_lt_succ hi, ?_⟩
      simp only [List.take_succ_cons, tableBits, ← Nat.add_assoc]
      exact ⟨hle, hlt, extractFields_cons_tail_error (readBits_ok h1 h64 hrow) herr⟩
    · have hcut := Nat.not_le.mp hrow
      exact ⟨0, Nat.succ_pos _, hoff, hcut, extractFields_cons_head_error (readBits_short h1 h64 hcut)⟩

end

/-- Settles O21: both outcomes of the rows, from bit 0. -/
theorem extractReadsRowsInOrder : Obligations.ExtractReadsRowsInOrder := by
  intro c buf tab hw
  refine ⟨fun hfit => ⟨rowValues buf tab 0, extractFields_ok hw (by omega), rowValues_length buf tab 0, fun i f hf => ?_⟩,
    fun hshort => ?_⟩
  · simpa using rowValues_getElem? buf hf 0
  · simpa using extractFields_short (c := c) hw (Nat.zero_le _) (by omega)

/-! ## EXTRACT -/

/-- The checks of a configuration let only legal widths into its tables (00_scope R10). -/
theorem selTable_widths (c : Config) (secondary : Bool) : ∀ f ∈ selTable c secondary, 1 ≤ f.width ∧ f.width ≤ 64 := by
  intro f hf
  rw [← c.maxWidth_eq]
  cases secondary with
  | false => exact c.field_width_range (.inl hf)
  | true => exact c.field_width_range (.inr hf)

section
variable {s : State} {b : BufSel} {m : BitVec 3}

theorem exec_extract_ok (hm : m.toNat ≤ 1) {vals : List (BitVec 64)}
    (h : extractFields s.cfg (selBuf s b) (selTable s.cfg (m.toNat == 1)) 0 = .ok vals) :
    exec (.extract b m) s = .next (completeOk (setMap s (m.toNat == 1) vals)) := by
  simp only [exec_extract hm, extractResult, h, complete_ok]

theorem exec_extract_error (hm : m.toNat ≤ 1) {e : Raise}
    (h : extractFields s.cfg (selBuf s b) (selTable s.cfg (m.toNat == 1)) 0 = .error e) :
    exec (.extract b m) s = .next (completeRaise s e) := by
  simp only [exec_extract hm, extractResult, h, complete_error]

/-- EXTRACT from a buffer that holds the bits of the table writes what the rows answer. -/
theorem exec_extract_fits (hm : m.toNat ≤ 1)
    (hfit : tableBits (selTable s.cfg (m.toNat == 1)) ≤ 8 * bufLen (selBuf s b)) :
    ∃ vals, extractFields s.cfg (selBuf s b) (selTable s.cfg (m.toNat == 1)) 0 = .ok vals ∧
      exec (.extract b m) s = .next (completeOk (setMap s (m.toNat == 1) vals)) := by
  have hok := extractFields_ok (c := s.cfg) (selTable_widths _ _) ((Nat.zero_add _).trans_le hfit)
  exact ⟨_, hok, exec_extract_ok hm hok⟩

theorem exec_extract_illegal (hm : 1 < m.toNat) :
    exec (.extract b m) s = .next (completeRaise s ⟨.illegalCommand, (encode (.extract b m)).toNat⟩) := by
  rw [exec, execExtract, if_pos hm, complete_error]

end

/-- The state a successful EXTRACT of the primary table ends in (42_header_extractor R200). -/
theorem completeOk_setMap_primary (s : State) (vals : List (BitVec 64)) :
    completeOk (setMap s false vals) = { s with
      map0 := vals,
      status := { s.status with map0Valid := true, pktValid := false, cacheValid := false,
                                lastOk := true, busy := false } } := by
  simp [completeOk, setMap, statusOk, statusExtracted]

/-- The state a successful EXTRACT of the secondary table ends in (42_header_extractor R200). -/
theorem completeOk_setMap_secondary (s : State) (vals : List (BitVec 64)) :
    completeOk (setMap s true vals) = { s with
      map1 := vals,
      status := { s.status with map1Valid := true, pktValid := false, cacheValid := false,
                                lastOk := true, busy := false } } := by
  simp [completeOk, setMap, statusOk, statusExtracted]

/-- Settles O22: EXTRACT completes with what the rows of its table answer from bit 0. -/
theorem extractResult_holds : Obligations.ExtractResult := by
  intro s b m
  refine ⟨rfl, ?_, ?_, fun hm hshort => ?_, exec_extract_illegal⟩
  · rintro rfl hfit
    obtain ⟨vals, hok, hexec⟩ := exec_extract_fits (m := 0#3) (by decide) hfit
    exact ⟨vals, hok, hexec.trans (congrArg _ (completeOk_setMap_primary s vals))⟩
  · rintro rfl hfit
    obtain ⟨vals, hok, hexec⟩ := exec_extract_fits (m := 1#3) (by decide) hfit
    exact ⟨vals, hok, hexec.trans (congrArg _ (completeOk_setMap_secondary s vals))⟩
  · obtain ⟨i, hi, hle, hlt, herr⟩ := (extractReadsRowsInOrder s.cfg (selBuf s b) _ (selTable_widths _ _)).2 hshort
    exact ⟨i, hi, hle, hlt, exec_extract_error hm herr⟩

end Sys2Proof.Machine
end

section
/-! PROOFS. Classification and CONSTRUCT: its outcomes in the order of its checks (43_packet R221 to R225). -/

namespace Sys2Proof.Machine

/-- Settles O23: one case for each branch of the classification. -/
theorem classifyByMode : Obligations.ClassifyByMode := by
  intro bm tm
  unfold classify
  split_ifs with h0 ht hc hd
  · simp [h0, ht]
  · simp [h0, ht]
  · simp [h0, hc]; omega
  · simp [h0, hc, hd]; omega
  · simp [h0, hc, hd]; omega

section
variable {s : State}

theorem exec_construct_sequenceError (h : s.status.map0Valid = false ∨ s.status.map1Valid = false) :
    exec .construct s = .next (completeRaise s ⟨.sequenceError, 0⟩) := by
  rw [exec_construct, constructResult, if_pos (by simpa [imp_iff_not_or] using h), complete_error]

variable (h0 : s.status.map0Valid = true) (h1 : s.status.map1Valid = true)
include h0 h1

theorem exec_construct_lengthMismatch (hl : (bufLen s.ud : Int) ≠ expectedLength s) :
    exec .construct s = .next (completeRaise s ⟨.lengthMismatch, bufLen s.ud⟩) := by
  rw [exec_construct, constructResult, if_neg (not_not_intro ⟨h0, h1⟩), if_pos hl, complete_error]

variable (hl : (bufLen s.ud : Int) = expectedLength s)
include hl

theorem exec_construct_invalidBaqMode (hf : classify (mapBaqMode s) (mapTestMode s) = none) :
    exec .construct s = .next (completeRaise s ⟨.invalidBaqMode, mapBaqMode s⟩) := by
  rw [exec_construct, constructResult, if_neg (not_not_intro ⟨h0, h1⟩), if_neg (not_not_intro hl)]
  simp only [hf, complete_error]

theorem exec_construct_ok {f : Format} (hf : classify (mapBaqMode s) (mapTestMode s) = some f) :
    exec .construct s = .next (completeOk (setPacket s (mapBaqMode s) (mapTestMode s) f (mapQuads s))) := by
  rw [exec_construct, constructResult, if_neg (not_not_intro ⟨h0, h1⟩), if_neg (not_not_intro hl)]
  simp only [hf, complete_ok]

end

/-- Settles O24: one outcome for each check that fails, and the registers of the packet where none does. A declared length
below 0 equals no buffer length. -/
theorem constructResult_holds : Obligations.ConstructResult := by
  refine ⟨by decide, fun s => ⟨exec_construct_sequenceError, exec_construct_lengthMismatch, fun h0 h1 hneg => ?_,
    fun h0 h1 hl => ?_⟩⟩
  · have hl : (bufLen s.ud : Int) ≠ expectedLength s := by
      unfold expectedLength mapDataLength
      omega
    exact exec_construct_lengthMismatch h0 h1 hl
  · rintro bm tm nq rfl rfl rfl
    exact ⟨exec_construct_invalidBaqMode h0 h1 hl, fun f => exec_construct_ok h0 h1 hl⟩

end Sys2Proof.Machine
end

section
/-! PROOFS. The outcomes of GET_SAMPLES: rejected, memoised, decoded, failed (43_packet R226 to R232). -/

namespace Sys2Proof.Machine

/-! ## The body of GET_SAMPLES by the valid bits -/

section
variable {s : State}

theorem getSamplesResult_of_no_packet (hp : s.status.pktValid = false) :
    getSamplesResult s = .error ⟨.sequenceError, 0⟩ := by
  simp [getSamplesResult, hp]

variable (hp : s.status.pktValid = true)
include hp

theorem getSamplesResult_of_cached (hc : s.status.cacheValid = true) : getSamplesResult s = .ok s := by
  simp [getSamplesResult, hp, hc]

theorem getSamplesResult_of_uncached (hc : s.status.cacheValid = false) : getSamplesResult s = decodePacket s := by
  simp [getSamplesResult, hp, hc]

end

/-- A failure outside a Type D decode keeps BRC and THIDX (log 11). -/
theorem exec_getSamples_rejected {s : State} {e : Raise} (h : getSamplesResult s = .error e)
    (hd : decodesTypeD s = false) : exec .getSamples s = .next (completeRaise s e) := by
  rw [exec_getSamples_error h, afterFailedSamples, hd, if_neg Bool.false_ne_true]

/-- Settles O25: both failures stand before any decode of Type D. -/
theorem samplesRejected : Obligations.SamplesRejected := by
  refine ⟨by decide, fun s => ⟨fun hp => ?_, fun hp hc hf => ?_⟩⟩
  · exact exec_getSamples_rejected (getSamplesResult_of_no_packet hp) (by simp [decodesTypeD, hp])
  · have hbody : getSamplesResult s = .error ⟨.unsupportedFormat, 0⟩ := by
      simp only [getSamplesResult_of_uncached hp hc, decodePacket, hf]
    exact exec_getSamples_rejected hbody (by simp [decodesTypeD, hf])

/-- Settles O26: a valid cache makes the body answer the state it started from. -/
theorem samplesMemoised : Obligations.SamplesMemoised := fun _ hp hc =>
  exec_getSamples_ok (getSamplesResult_of_cached hp hc)

/-- Settles O29: the decode's answer is written by the body and completed. -/
theorem typeDResult : Obligations.TypeDResult := by
  intro s samples brc thidx hp hc hf hd
  have hbody : getSamplesResult s = .ok (cacheSamples (setSide s brc thidx) samples) := by
    simp only [getSamplesResult_of_uncached hp hc, decodePacket, hf, hd]
  exact exec_getSamples_ok hbody

/-- A GET_SAMPLES fails only without a valid cache, where a valid cache comes with a valid packet. -/
theorem cacheValid_false_of_failed_getSamples {s t : State} (hs : s.status.cacheValid = true → s.status.pktValid = true)
    (h : exec .getSamples s = .next t) (hfail : t.status.lastOk = false) : s.status.cacheValid = false := by
  by_contra hc
  have hc : s.status.cacheValid = true := by simpa using hc
  rw [samplesMemoised s (hs hc) hc] at h
  cases h
  cases hfail

/-- Settles O35: a failure records its error on the state it started from, but for BRC and THIDX after a Type D decode. -/
theorem failedSamplesKeepState : Obligations.FailedSamplesKeepState := by
  intro s t hs h hfail
  have hc := cacheValid_false_of_failed_getSamples hs h hfail
  rcases exec_cases h with ⟨u, -, rfl⟩ | ⟨e, rfl, -⟩ | ⟨e, rfl, -, -⟩
  · cases hfail
  · exact ⟨hc, rfl, rfl, rfl, rfl⟩
  · exact ⟨hc, rfl, rfl, rfl, rfl⟩

end Sys2Proof.Machine
end

section
/-! PROOFS. How many samples and how much side information a decode gives (43_packet R229, 44_type_d_path R262 to R270). -/

namespace Sys2Proof.Machine

/-! ## Type A and B -/

/-- Interleaving four components of `n` quads gives two samples a quad. -/
theorem interleave_length {n : Nat} {ie io qe qo : List SVal} (h1 : ie.length = n) (h2 : io.length = n)
    (h3 : qe.length = n) (h4 : qo.length = n) : (interleave ie io qe qo).length = 2 * n := by
  induction n generalizing ie io qe qo with
  | zero => simp [List.length_eq_zero_iff.mp h1, interleave]
  | succ n ih =>
    obtain ⟨i, ie, rfl⟩ := List.exists_cons_of_length_eq_add_one h1
    obtain ⟨j, io, rfl⟩ := List.exists_cons_of_length_eq_add_one h2
    obtain ⟨k, qe, rfl⟩ := List.exists_cons_of_length_eq_add_one h3
    obtain ⟨l, qo, rfl⟩ := List.exists_cons_of_length_eq_add_one h4
    simp only [List.length_cons, Nat.add_right_cancel_iff] at h1 h2 h3 h4
    simp only [interleave, List.length_cons, ih h1 h2 h3 h4]
    omega

theorem codesAB_length {c : Config} {ud : Buffer} {n ic : Nat} {ks : List Code} {ic' : Nat}
    (h : codesAB c ud n ic = .ok (ks, ic')) : ks.length = n := by
  by_cases hfit : n = 0 ∨ ic + abCodeBits c * n ≤ 8 * bufLen ud
  · rw [codesAB_ok hfit] at h
    cases h
    simp
  · obtain ⟨p, hp⟩ := codesAB_short hfit
    simp [hp] at h

theorem componentAB_length {c : Config} {ud : Buffer} {nq ic : Nat} {vs : List SVal} {ic' : Nat}
    (h : componentAB c ud nq ic = .ok (vs, ic')) : vs.length = nq := by
  unfold componentAB at h
  split at h
  · cases h
  · next hks =>
    cases h
    rw [List.length_map, codesAB_length hks]

/-- A Type A/B decode gives two samples a quad. -/
theorem decodeAB_length {c : Config} {ud : Buffer} {nq : Nat} {out : List (SVal × SVal)} {ic : Nat}
    (h : decodeAB c ud nq = .ok (out, ic)) : out.length = 2 * nq := by
  unfold decodeAB at h
  split at h
  · cases h
  next h1 =>
  split at h
  · cases h
  next h2 =>
  split at h
  · cases h
  next h3 =>
  split at h
  · cases h
  next h4 =>
  cases h
  exact interleave_length (componentAB_length h1) (componentAB_length h2) (componentAB_length h3)
    (componentAB_length h4)

/-! ## Type D -/

theorem Layout.samples_length (l : Layout) (nq : Nat) : (l.samples nq).length = 2 * nq := by
  simp [Layout.samples, Nat.mul_comm]

/-- The first quad of a block of the packet is one of its quads. -/
theorem mul_lt_of_lt_ceilDiv {B n b : Nat} (hB : 1 ≤ B) (hb : b < ceilDiv n B) : B * b < n := by
  obtain rfl | hn := Nat.eq_zero_or_pos n
  · rw [ceilDiv_zero hB] at hb
    omega
  · obtain ⟨m, hm, hlt, -⟩ := ceilDiv_pos hB hn
    exact (Nat.mul_le_mul_left B (by omega)).trans_lt hlt

/-- Settles O30: the layout of the decode has two samples a quad, and each BRC is one that its block of IE starts with. -/
theorem typeDSideInformation : Obligations.TypeDSideInformation := by
  intro c ud nq samples brc thidx h
  obtain ⟨hb, ht, l, -, hread, rfl⟩ := (typeDLayout c ud nq samples brc thidx).mp h
  refine ⟨l.samples_length nq, hb, ht, fun x hx => ?_⟩
  obtain ⟨b, hlt, rfl⟩ := List.mem_iff_getElem.mp hx
  have hq : c.blockQ * b < nq := mul_lt_of_lt_ceilDiv c.blockQ_pos (hb ▸ hlt)
  obtain ⟨⟨hside, -⟩, -⟩ := hread .ie _ hq
  obtain ⟨-, hmax, hbits⟩ := hside (Nat.mul_mod_right ..)
  rw [Nat.mul_div_cancel_left b c.blockQ_pos, brcAt, List.getD_eq_getElem _ _ hlt] at hbits
  exact hbits.trans_le hmax

end Sys2Proof.Machine
end

section
/-! PROOFS. A decode depends on what UD holds below LEN, on FMT, NQ and NB, and on nothing else (43_packet R232). -/

namespace Sys2Proof.Machine

/-! ## The samples of a packet in any format -/

/-- The samples a GET_SAMPLES of a constructed, uncached packet decodes (43_packet R226, R228). -/
def decodedSamples (c : Config) (ud : Buffer) (fmt : Format) (nq nb : Nat) : Except Raise (List (SVal × SVal)) :=
  match fmt with
  | .c => .error ⟨.unsupportedFormat, 0⟩
  | .a | .b => (decodeAB c ud nq).map Prod.fst
  | .d => (decodeD c ud nq nb).map Prod.fst

theorem decodedSamples_readAlike {c : Config} {b b' : Buffer} (h : ReadAlike c b b') (fmt : Format) (nq nb : Nat) :
    decodedSamples c b fmt nq nb = decodedSamples c b' fmt nq nb := by
  simp only [decodedSamples, decodeAB_readAlike h, decodeD_readAlike h]

theorem exists_of_map_eq_ok {ε α β : Type} {f : α → β} {x : Except ε α} {b : β} (h : x.map f = .ok b) :
    ∃ a, x = .ok a ∧ f a = b := by
  cases x with
  | error e => cases h
  | ok a => exact ⟨a, rfl, Except.ok.inj h⟩

/-- A decode gives two samples a quad. -/
theorem decodedSamples_length {c : Config} {ud : Buffer} {fmt : Format} {nq : Nat} {out : List (SVal × SVal)}
    (h : decodedSamples c ud fmt nq (ceilDiv nq c.blockQ) = .ok out) : out.length = 2 * nq := by
  cases fmt with
  | c => cases h
  | d =>
    obtain ⟨⟨_, brc, thidx⟩, hx, rfl⟩ := exists_of_map_eq_ok h
    exact (typeDSideInformation _ _ _ _ _ _ hx).1
  | _ =>
    obtain ⟨⟨_, ic⟩, hx, rfl⟩ := exists_of_map_eq_ok h
    exact decodeAB_length hx

/-! ## OUT after a decode -/

/-- The decode of a packet fails, or writes the samples to the front of OUT. -/
theorem decodePacket_out (s : State) :
    (decodePacket s).map State.out =
      (decodedSamples s.cfg s.ud s.fmt s.nq.toNat s.nb.toNat).map fun out => writeFront out s.out := by
  unfold decodePacket decodedSamples
  cases s.fmt with
  | c => rfl
  | d => cases decodeD s.cfg s.ud s.nq.toNat s.nb.toNat <;> rfl
  | _ => cases decodeAB s.cfg s.ud s.nq.toNat <;> rfl

/-- GET_SAMPLES of a constructed, uncached packet succeeds exactly where its samples decode. -/
theorem exec_getSamples_uncached {s t : State} (hp : s.status.pktValid = true) (hc : s.status.cacheValid = false)
    (h : exec .getSamples s = .next t) :
    (∃ out, decodedSamples s.cfg s.ud s.fmt s.nq.toNat s.nb.toNat = .ok out ∧ t.status.lastOk = true ∧
      t.out = writeFront out s.out) ∨
    (∃ e, decodedSamples s.cfg s.ud s.fmt s.nq.toNat s.nb.toNat = .error e ∧ t.status.lastOk = false) := by
  have hbody := getSamplesResult_of_uncached hp hc
  have hout := decodePacket_out s
  cases hd : decodePacket s with
  | ok u =>
    rw [hd] at hbody hout
    obtain ⟨out, ho, hu⟩ := exists_of_map_eq_ok hout.symm
    rw [exec_getSamples_ok hbody] at h
    cases h
    exact .inl ⟨out, ho, rfl, hu.symm⟩
  | error e =>
    rw [hd] at hbody hout
    rw [exec_getSamples_error hbody] at h
    cases h
    cases hs : decodedSamples s.cfg s.ud s.fmt s.nq.toNat s.nb.toNat with
    | ok out => simp [hs, Except.map] at hout
    | error e' => exact .inr ⟨e', rfl, rfl⟩

theorem getD_writeFront {α : Type} {new : List α} (old : List α) (d : α) {k : Nat} (hk : k < new.length) :
    (writeFront new old).getD k d = new.getD k d := List.getD_append _ _ _ _ hk

/-- Settles O36: both decodes answer the same samples, and these fill the first 2·NQ entries of OUT. -/
theorem samplesDeterministic : Obligations.SamplesDeterministic := by
  intro s s' t t' hs hcfg hfmt hnq hnb hud hp hc hp' hc' h h'
  have hsame := decodedSamples_readAlike (readBits_sameBytes hud s.cfg) s.fmt s.nq.toNat s.nb.toNat
  have hdec' := exec_getSamples_uncached hp' hc' h'
  rw [hcfg, hfmt, hnq, hnb, ← hsame] at hdec'
  rcases exec_getSamples_uncached hp hc h with ⟨out, hd, hok, hout⟩ | ⟨e, hd, hfail⟩
  · rcases hdec' with ⟨out', hd', hok', hout'⟩ | ⟨e', hd', -⟩
    · obtain rfl : out = out' := Except.ok.inj (hd.symm.trans hd')
      rw [hs.nb_eq] at hd
      refine ⟨hok'.trans hok.symm, fun _ k hk => ?_⟩
      rw [← decodedSamples_length hd] at hk
      rw [outAt, outAt, hout, hout', getD_writeFront _ _ hk, getD_writeFront _ _ hk]
    · cases hd.symm.trans hd'
  · rcases hdec' with ⟨out', hd', -⟩ | ⟨e', -, hfail'⟩
    · cases hd.symm.trans hd'
    · exact ⟨hfail'.trans hfail.symm, fun hok => by simp [hfail] at hok⟩

end Sys2Proof.Machine
end

section
/-! PROOFS. What the invariants of the packet and its cache read, and the packet registers and the maps through a step
(43_packet R223, 10_state R46, R49). -/

namespace Sys2Proof

/-- The tables have the fields that CONSTRUCT reads (00_scope R10). -/
theorem Config.required_fields (c : Config) :
    hasField c.phTable .packetDataLength = true ∧ hasField c.shTable .numberOfQuads = true ∧
      hasField c.shTable .testMode = true ∧ hasField c.shTable .baqMode = true := by
  have := c.check_holds (e := .missingName) (by simp [ConfigData.checks]; rfl)
  simpa [and_assoc] using this

end Sys2Proof

namespace Sys2Proof.Machine

/-! ## What the invariants read -/

/-- The configuration, the header maps and the packet registers: what `State.PacketOk` reads. -/
def State.packetView (s : State) : Config × List (BitVec 64) × List (BitVec 64) × Byte × Byte × Format × Word × Word :=
  (s.cfg, s.map0, s.map1, s.baqMode, s.testMode, s.fmt, s.nq, s.nb)

/-- The arrays of a cached packet: what `State.CacheOk` reads beside CACHE_VALID and the packet registers. -/
def State.arrays (s : State) : List (BitVec 3) × List (BitVec 8) × List (SVal × SVal) := (s.brc, s.thidx, s.out)

theorem State.PacketOk.congr {s t : State} (hs : s.PacketOk) (h : t.packetView = s.packetView) : t.PacketOk := by
  simp only [packetView, Prod.mk.injEq] at h
  obtain ⟨hcfg, hmap0, hmap1, hbaq, htest, hfmt, hnq, hnb⟩ := h
  constructor
  · rw [hcfg, hmap0]; exact hs.map0_fits
  · rw [hcfg, hmap1]; exact hs.map1_fits
  · rw [hcfg, hnq]; exact hs.nq_bound
  · rw [hcfg, hnq, hnb]; exact hs.nb_eq
  · rw [hbaq, htest, hfmt]; exact hs.fmt_eq

theorem State.CacheOk.of_invalid {s : State} (h : s.status.cacheValid = false) : s.CacheOk := by
  constructor <;> simp [h]

/-- The cache invariant survives a loss of CACHE_VALID. -/
theorem State.CacheOk.congr {s t : State} (hs : s.CacheOk) (hp : t.packetView = s.packetView)
    (ha : t.arrays = s.arrays) (hv : t.status.cacheValid = true → s.status.cacheValid = true) : t.CacheOk := by
  simp only [packetView, arrays, Prod.mk.injEq] at hp ha
  obtain ⟨hcfg, -, -, -, -, hfmt, hnq, hnb⟩ := hp
  obtain ⟨hbrc, hthidx, hout⟩ := ha
  constructor
  · intro h
    rw [hfmt]
    exact hs.decodable (hv h)
  · intro h
    rw [hnq, hout]
    exact hs.samples (hv h)
  · intro h hf
    rw [hfmt] at hf
    rw [hcfg, hnb, hbrc, hthidx]
    exact hs.side (hv h) hf

theorem CommandKeeps.packetView_eq {i : Instr} {s t : State} (h : CommandKeeps i s t) (hx : ∀ b m, i ≠ .extract b m)
    (hc : i ≠ .construct) : t.packetView = s.packetView := by
  obtain ⟨hmap0, hmap1, -⟩ := h.maps hx
  obtain ⟨hbaq, htest, hfmt, hnq, hnb⟩ := h.packet hc
  simp only [State.packetView, h.cfg, hmap0, hmap1, hbaq, htest, hfmt, hnq, hnb]

theorem CommandKeeps.arrays_eq {i : Instr} {s t : State} (h : CommandKeeps i s t) (hg : i ≠ .getSamples) :
    t.arrays = s.arrays := by
  obtain ⟨hout, hbrc, hthidx, -⟩ := h.samples hg
  simp only [State.arrays, hout, hbrc, hthidx]

/-- What a step does to the packet and its cache: a RESET, a command, or nothing but that it may drop the cache. -/
inductive PacketStep (s t : State) : Prop where
  | reset {rest : List Transaction} (hp : s.pending = .reset :: rest) (ht : t = resetCore (takeNext s rest))
  | command {rest : List Transaction} {v : Word} {i : Instr} (hp : s.pending = .wr 0#6 v :: rest)
      (hd : decode v = .ok i) (ht : exec i (startCommand (takeNext s rest)) = .next t)
  | keeps (hp : t.packetView = s.packetView) (ha : t.arrays = s.arrays)
      (hv : t.status.cacheValid = true → s.status.cacheValid = true)

theorem step_packetStep {s t : State} (h : step s = .next t) : PacketStep s t := by
  cases step_cases h with
  | idle _ ht => subst ht; exact .keeps rfl rfl id
  | reset hp ht => exact .reset hp ht
  | load _ _ _ ht => subst ht; exact .keeps rfl rfl (by simp +contextual)
  | command hp _ hd ht => exact .command hp hd ht
  | illegal _ _ _ ht => subst ht; exact .keeps rfl rfl id
  | clear _ _ _ ht => subst ht; exact .keeps rfl rfl id
  | cursor _ _ ht => subst ht; exact .keeps rfl rfl id
  | ignored _ _ ht => subst ht; exact .keeps rfl rfl id
  | read _ _ _ _ ht => subst ht; exact .keeps rfl rfl id

/-! ## The packet registers and the maps -/

/-- EXTRACT writes a map that fits its table. -/
theorem setMap_packetOk {s : State} (hs : s.PacketOk) (secondary : Bool) {vals : List (BitVec 64)}
    (hv : MapFits (selTable s.cfg secondary) vals) : (setMap s secondary vals).PacketOk := by
  cases secondary with
  | false => exact ⟨hv, hs.map1_fits, hs.nq_bound, hs.nb_eq, hs.fmt_eq⟩
  | true => exact ⟨hs.map0_fits, hv, hs.nq_bound, hs.nb_eq, hs.fmt_eq⟩

section
variable {s : State} (hs : s.PacketOk)
include hs

theorem State.PacketOk.mapBaqMode_lt : mapBaqMode s < 2 ^ 8 :=
  (lookupField_lt hs.map1_fits s.cfg.required_fields.2.2.2).trans_le
    (Nat.pow_le_pow_right (by decide) s.cfg.mode_field_width.1)

theorem State.PacketOk.mapTestMode_lt : mapTestMode s < 2 ^ 8 :=
  (lookupField_lt hs.map1_fits s.cfg.required_fields.2.2.1).trans_le
    (Nat.pow_le_pow_right (by decide) s.cfg.mode_field_width.2)

theorem State.PacketOk.mapQuads_lt : mapQuads s < 2 ^ fieldWidth s.cfg.shTable .numberOfQuads :=
  lookupField_lt hs.map1_fits s.cfg.required_fields.2.1

end

/-- A packet has no more blocks than quads. -/
theorem ceilDiv_le {B : Nat} (hB : 1 ≤ B) (n : Nat) : ceilDiv n B ≤ n := by
  obtain rfl | hn := Nat.eq_zero_or_pos n
  · exact (ceilDiv_zero hB).le
  · obtain ⟨m, hm, hlt, -⟩ := ceilDiv_pos hB hn
    have := Nat.le_mul_of_pos_left m hB
    omega

theorem ofNat_toNat_of_lt {w v : Nat} (h : v < 2 ^ w) : (BitVec.ofNat w v).toNat = v :=
  (bitVec_ofNat_eq_iff h _).mp rfl

/-- CONSTRUCT writes the registers of a packet: the fields it reads fit them. -/
theorem setPacket_packetOk {s : State} (hs : s.PacketOk) {f : Format}
    (hf : classify (mapBaqMode s) (mapTestMode s) = some f) :
    (setPacket s (mapBaqMode s) (mapTestMode s) f (mapQuads s)).PacketOk := by
  have hq := hs.mapQuads_lt
  have hq32 : mapQuads s < 2 ^ 32 := hq.trans_le (Nat.pow_le_pow_right (by decide) s.cfg.quads_width)
  have hb32 := (ceilDiv_le s.cfg.blockQ_pos (mapQuads s)).trans_lt hq32
  refine ⟨hs.map0_fits, hs.map1_fits, ?_, ?_, ?_⟩
  · rw [setPacket_nq, ofNat_toNat_of_lt hq32]
    exact Nat.le_sub_one_of_lt hq
  · rw [setPacket_nb, setPacket_nq, ofNat_toNat_of_lt hq32, ofNat_toNat_of_lt hb32]
    rfl
  · rw [setPacket_baqMode, setPacket_testMode, ofNat_toNat_of_lt hs.mapBaqMode_lt, ofNat_toNat_of_lt hs.mapTestMode_lt]
    exact hf

/-- Only EXTRACT and CONSTRUCT write what the invariant reads. -/
theorem effect_packetOk {i : Instr} {s u : State} (hs : s.PacketOk) (h : Effect i s u) : u.PacketOk := by
  cases i with
  | extract b m =>
    obtain ⟨-, vals, hv, rfl⟩ := h
    exact setMap_packetOk hs _ (extractFields_fits hv)
  | construct =>
    obtain ⟨-, f, hf, rfl⟩ := h
    exact setPacket_packetOk hs hf
  | _ => exact hs.congr ((effect_keeps h).packetView_eq (by simp) (by simp))

theorem exec_packetOk {i : Instr} {s t : State} (hs : s.PacketOk) (h : exec i s = .next t) : t.PacketOk := by
  rcases exec_cases h with ⟨u, hu, rfl⟩ | ⟨e, rfl, -⟩ | ⟨e, rfl, -, -⟩
  · exact (effect_packetOk hs hu).congr rfl
  · exact hs.congr rfl
  · exact hs.congr rfl

/-- Settles O45: a command keeps the registers those of a packet, and no other transaction but RESET writes them. -/
theorem stepKeepsPacket : Obligations.StepKeepsPacket := by
  intro s t hs h
  have hn : ∀ rest, (startCommand (takeNext s rest)).PacketOk := fun _ => hs.congr rfl
  cases step_packetStep h with
  | reset _ ht => rw [ht]; exact (cleared_packetOk _).congr rfl
  | command _ _ ht => exact exec_packetOk (hn _) ht
  | keeps hp _ _ => exact hs.congr hp

end Sys2Proof.Machine
end

section
/-! PROOFS. The cache and OUT through a step: only a first successful GET_SAMPLES fills them (43_packet R229, R233). -/

namespace Sys2Proof.Machine

/-! ## The cache -/

theorem length_le_writeFront {α : Type} (new old : List α) : new.length ≤ (writeFront new old).length := by
  simp [writeFront]

/-- The samples of a Type A/B packet are a whole cache. -/
theorem cacheSamples_cacheOk_of_ab {s : State} (hf : s.fmt = .a ∨ s.fmt = .b) {out : List (SVal × SVal)} {ic : Nat}
    (h : decodeAB s.cfg s.ud s.nq.toNat = .ok (out, ic)) : (cacheSamples s out).CacheOk := by
  constructor
  · intro _ hc
    rw [cacheSamples_fmt] at hc
    simp [hc] at hf
  · intro _
    exact (decodeAB_length h).ge.trans (length_le_writeFront out s.out)
  · intro _ hd
    rw [cacheSamples_fmt] at hd
    simp [hd] at hf

/-- The samples and the side information of a Type D packet are a whole cache. -/
theorem cacheSamples_setSide_cacheOk {s : State} (hs : s.PacketOk) (hf : s.fmt = .d) {out : List (SVal × SVal)}
    {brc : List (BitVec 3)} {thidx : List (BitVec 8)}
    (h : decodeD s.cfg s.ud s.nq.toNat s.nb.toNat = .ok (out, brc, thidx)) :
    (cacheSamples (setSide s brc thidx) out).CacheOk := by
  rw [hs.nb_eq] at h
  obtain ⟨hout, hbrc, hthidx, hmax⟩ := typeDSideInformation _ _ _ _ _ _ h
  rw [← hs.nb_eq] at hbrc hthidx
  constructor
  · intro _
    simp [hf]
  · intro _
    exact hout.ge.trans (length_le_writeFront out s.out)
  · intro _ _
    refine ⟨hbrc.ge.trans (length_le_writeFront brc s.brc), hthidx.ge.trans (length_le_writeFront thidx s.thidx),
      fun b hb => ?_⟩
    have hlt : b < brc.length := hb.trans_eq hbrc.symm
    have hentry : brcAt (writeFront brc s.brc) b = brc[b] :=
      (getD_writeFront s.brc 0#3 hlt).trans (List.getD_eq_getElem _ _ hlt)
    exact hentry ▸ hmax _ (List.getElem_mem hlt)

/-- EXTRACT and CONSTRUCT drop the cache, a first successful GET_SAMPLES fills it, and no other command touches it. -/
theorem effect_cacheOk {i : Instr} {s u : State} (hp : s.PacketOk) (hs : s.CacheOk) (h : Effect i s u) : u.CacheOk := by
  cases i with
  | extract b m =>
    obtain ⟨-, vals, -, rfl⟩ := h
    exact .of_invalid rfl
  | construct =>
    obtain ⟨-, f, -, rfl⟩ := h
    exact .of_invalid rfl
  | getSamples =>
    obtain ⟨-, ⟨-, rfl⟩ | ⟨-, hf, out, ic, hd, rfl⟩ | ⟨-, hf, out, brc, thidx, hd, rfl⟩⟩ := h
    · exact hs
    · exact cacheSamples_cacheOk_of_ab hf hd
    · exact cacheSamples_setSide_cacheOk hp hf hd
  | _ =>
    have hk := effect_keeps h
    exact hs.congr (hk.packetView_eq (by simp) (by simp)) (hk.arrays_eq (by simp))
      (hk.cacheValid (by simp) (by simp) (by simp) ▸ id)

theorem cacheValid_false_of_decodesTypeD {s : State} (h : decodesTypeD s = true) : s.status.cacheValid = false := by
  simp only [decodesTypeD, Bool.and_eq_true, Bool.not_eq_true'] at h
  exact h.1.2

theorem exec_cacheOk {i : Instr} {s t : State} (hp : s.PacketOk) (hs : s.CacheOk) (h : exec i s = .next t) :
    t.CacheOk := by
  rcases exec_cases h with ⟨u, hu, rfl⟩ | ⟨e, rfl, -⟩ | ⟨e, rfl, -, hd⟩
  · exact (effect_cacheOk hp hs hu).congr rfl rfl id
  · exact hs.congr rfl rfl id
  · exact .of_invalid (cacheValid_false_of_decodesTypeD hd)

/-- Settles O46: a command keeps the cache whole, and any other transaction keeps or drops it. -/
theorem stepKeepsCache : Obligations.StepKeepsCache := by
  intro s t hp hs h
  have hpn : ∀ rest, (startCommand (takeNext s rest)).PacketOk := fun _ => hp.congr rfl
  have hn : ∀ rest, (startCommand (takeNext s rest)).CacheOk := fun _ => hs.congr rfl rfl id
  cases step_packetStep h with
  | reset _ ht => rw [ht]; exact .of_invalid rfl
  | command _ _ ht => exact exec_cacheOk (hpn _) (hn _) ht
  | keeps hp ha hv => exact hs.congr hp ha hv

/-! ## OUT -/

/-- Only a GET_SAMPLES that fills the cache writes OUT. -/
theorem exec_writes_out {i : Instr} {s t : State} (h : exec i s = .next t) (hout : t.out ≠ s.out) :
    i = .getSamples ∧ s.status.cacheValid = false ∧ t.status.cacheValid = true ∧ t.status.lastOk = true := by
  obtain rfl : i = .getSamples := by
    by_contra hi
    exact hout ((exec_keeps h).samples hi).1
  rcases exec_cases h with ⟨u, ⟨-, hu⟩, rfl⟩ | ⟨e, rfl, -⟩ | ⟨e, rfl, -, -⟩
  · obtain ⟨-, rfl⟩ | ⟨hc, -, out, ic, -, rfl⟩ | ⟨hc, -, out, brc, thidx, -, rfl⟩ := hu
    · exact absurd rfl hout
    · exact ⟨rfl, hc, rfl, rfl⟩
    · exact ⟨rfl, hc, rfl, rfl⟩
  · exact absurd rfl hout
  · exact absurd rfl hout

/-- Settles O48: beside RESET only a command writes OUT, and that is the GET_SAMPLES that fills the cache. -/
theorem samplesSingleAssignment : Obligations.SamplesSingleAssignment := by
  intro s t h hout
  cases step_packetStep h with
  | reset hp _ => exact .inl (by rw [hp]; rfl)
  | command hp hd ht =>
    obtain ⟨rfl, hc, hc', hok⟩ := exec_writes_out ht hout
    exact .inr ⟨hc, hc', hok, _, _, hp, hd⟩
  | keeps _ ha _ =>
    simp only [State.arrays, Prod.mk.injEq] at ha
    exact absurd ha.2.2 hout

end Sys2Proof.Machine
end

section
/-! PROOFS. The Type D path: which errors its bit-stream raises and when, the blocks of a packet, the reconstruction of a
sample and the order of the samples (44_type_d_path R260 to R271). -/

namespace Sys2Proof.Machine

/-! ## The errors of the bit-stream -/

/-- The errors that reading the codes of a Type D packet can raise (44_type_d_path R271). -/
def ErrKind.IsBitStream (k : ErrKind) : Prop := k = .bufferTooShort ∨ k = .invalidBrc ∨ k = .huffmanDecodeError

section
variable {c : Config} {ud : Buffer} {k : Component} {e : Raise}

theorem readBits_error_isBitStream {s n : Nat} (h1 : 1 ≤ n) (h2 : n ≤ 64) (h : readBits c ud s n = .error e) :
    e.kind.IsBitStream := by
  obtain ⟨hn, -⟩ | ⟨-, -, rfl⟩ := readBits_error_iff.mp h
  · exact absurd ⟨h1, h2⟩ hn
  · exact .inl rfl

theorem huffDecode_error_isBitStream {b p : Nat} (h : huffDecode c ud b p = .error e) : e.kind.IsBitStream := by
  obtain ⟨-, hk | hk | hk⟩ := huffDecode_error h
  · exact .inr (.inl hk)
  · exact .inl hk
  · exact .inr (.inr hk)

theorem blockHeader_error_isBitStream {x : DecodeCtx} (h : blockHeader c ud k x = .error e) : e.kind.IsBitStream := by
  obtain ⟨⟨hbrc, hbrc'⟩, hthidx, hthidx'⟩ := c.fieldBits_range.1
  unfold blockHeader at h
  cases k with
  | ie =>
    simp only at h
    split at h
    · next hr => cases h; exact readBits_error_isBitStream hbrc hbrc' hr
    · split_ifs at h; cases h; exact .inr (.inl rfl)
  | qe =>
    simp only at h
    split at h
    · next hr => cases h; exact readBits_error_isBitStream hthidx (by omega) hr
    · cases h
  | io => cases h
  | qo => cases h

theorem samplesD_error_isBitStream {b n ic : Nat} (h : samplesD c ud b n ic = .error e) : e.kind.IsBitStream := by
  induction n generalizing ic with
  | zero => cases h
  | succ n ih =>
    unfold samplesD at h
    split at h
    · next hr => cases h; exact readBits_error_isBitStream (by decide) (by decide) hr
    split at h
    · next hd => cases h; exact huffDecode_error_isBitStream hd
    split at h
    · next hs => cases h; exact ih hs
    · cases h

theorem blocksD_error_isBitStream {nq nb left b : Nat} {x : DecodeCtx} (h : blocksD c ud k nq nb left b x = .error e) :
    e.kind.IsBitStream := by
  induction left generalizing b x with
  | zero => cases h
  | succ left ih =>
    unfold blocksD at h
    split at h
    · next hh => cases h; exact blockHeader_error_isBitStream hh
    split at h
    · next hs => cases h; exact samplesD_error_isBitStream hs
    split at h
    · next hb => cases h; exact ih hb
    · cases h

theorem componentD_error_isBitStream {nq nb : Nat} {x : DecodeCtx} (h : componentD c ud k nq nb x = .error e) :
    e.kind.IsBitStream := by
  unfold componentD at h
  split at h
  · next hb => cases h; exact blocksD_error_isBitStream hb
  · cases h

theorem codesD_error_isBitStream {nq nb : Nat} (h : codesD c ud nq nb = .error e) : e.kind.IsBitStream := by
  unfold codesD at h
  split at h
  · next hie => cases h; exact componentD_error_isBitStream hie
  split at h
  · next hio => cases h; exact componentD_error_isBitStream hio
  split at h
  · next hqe => cases h; exact componentD_error_isBitStream hqe
  split at h
  · next hqo => cases h; exact componentD_error_isBitStream hqo
  · cases h

/-- A Type D decode fails either in reading the codes or, all of them read, in a reconstruction. -/
theorem decodeD_error_cases {nq nb : Nat} (h : decodeD c ud nq nb = .error e) :
    codesD c ud nq nb = .error e ∨ e = ⟨.invalidMagnitudeCode, 0⟩ := by
  unfold decodeD at h
  split at h
  · next hc => cases h; exact .inl hc
  right
  split at h
  · next hie => cases h; exact reconFrom_error hie
  split at h
  · next hio => cases h; exact reconFrom_error hio
  split at h
  · next hqe => cases h; exact reconFrom_error hqe
  split at h
  · next hqo => cases h; exact reconFrom_error hqo
  · cases h

theorem decodeD_of_codesD_error {nq nb : Nat} (h : codesD c ud nq nb = .error e) : decodeD c ud nq nb = .error e := by
  simp only [decodeD, h]

end

/-- Settles O31: all codes are read before any is reconstructed, so a decode fails in the codes or in a reconstruction. -/
theorem bitStreamErrorsFirst : Obligations.BitStreamErrorsFirst := by
  refine fun c ud nq nb e => ⟨fun h => ⟨decodeD_of_codesD_error h, codesD_error_isBitStream h⟩, ?_⟩
  rintro ⟨r, hr⟩ h
  obtain hc | he := decodeD_error_cases h
  · cases hr.symm.trans hc
  · exact he

/-! ## The blocks of a packet -/

theorem blockLen_of_lt {c : Config} {nq nb b : Nat} (h : b + 1 < nb) : blockLen c b nq nb = c.blockQ := if_pos h

theorem blockLen_last {c : Config} {nq b : Nat} : blockLen c b nq (b + 1) = nq - c.blockQ * b := if_neg (Nat.lt_irrefl _)

/-- The blocks before the last hold BLOCK_Q samples each. -/
theorem sum_blockLen_before_last (c : Config) (nq n : Nat) :
    ((List.range n).map fun b => blockLen c b nq (n + 1)).sum = c.blockQ * n := by
  have h : (List.range n).map (fun b => blockLen c b nq (n + 1)) = (List.range n).map fun _ => c.blockQ :=
    List.map_congr_left fun b hb => blockLen_of_lt (by simpa using hb)
  rw [h, List.map_const', List.sum_replicate, List.length_range, smul_eq_mul, Nat.mul_comm]

/-- The blocks of a packet hold its quads, each once. -/
theorem sum_blockLen (c : Config) (nq : Nat) :
    ((List.range (ceilDiv nq c.blockQ)).map fun b => blockLen c b nq (ceilDiv nq c.blockQ)).sum = nq := by
  obtain rfl | hn := Nat.eq_zero_or_pos nq
  · rw [ceilDiv_zero c.blockQ_pos]
    rfl
  · obtain ⟨n, hnb, hlt, -⟩ := ceilDiv_pos c.blockQ_pos hn
    rw [hnb, List.range_succ, List.map_append, List.sum_append, sum_blockLen_before_last, List.map_singleton,
      List.sum_singleton, blockLen_last, Nat.add_sub_cancel' hlt.le]

/-- Settles O32: the last block begins before the end of the packet and at most BLOCK_Q quads before it. -/
theorem blocksCoverPacket : Obligations.BlocksCoverPacket := by
  refine ⟨rfl, fun c nq => ⟨?_, fun b => blockLen_of_lt, fun hn => ?_, sum_blockLen c nq⟩⟩
  · rintro rfl
    exact ceilDiv_zero c.blockQ_pos
  · obtain ⟨b, hb, hlt, hle⟩ := ceilDiv_pos c.blockQ_pos hn
    refine ⟨b, hb.symm, ?_⟩
    rw [hb, blockLen_last]
    refine ⟨rfl, by omega, by omega, fun hdvd => ?_⟩
    have : c.blockQ ≤ nq - c.blockQ * b := Nat.le_of_dvd (by omega) (Nat.dvd_sub hdvd (Nat.dvd_mul_right ..))
    omega

/-! ## Reconstruction -/

/-- Settles O33: the threshold index selects the branch of ReconD, and the magnitude the branch within it. -/
theorem reconstructionBranches : Obligations.ReconstructionBranches := by
  refine fun c b t m sg => ⟨fun ht hm => ?_, fun ht hm => ?_, fun ht hm => ?_, fun ht hm => ?_, fun ht hm => ?_⟩
  · simp only [reconD, if_pos ht, if_pos hm]
  · simp only [reconD, if_pos ht, if_neg hm.not_lt, if_pos hm]
  · simp only [reconD, if_pos ht, if_neg hm.not_gt, if_neg hm.ne']
  · simp only [reconD, if_neg ht.not_ge, if_neg hm.not_ge]
  · simp only [reconD, if_neg ht.not_ge, if_pos hm]

/-! ## The order of the samples -/

/-- The two samples of quad `q`. -/
theorem interleave_getElem? {ie io qe qo : List SVal} (hio : io.length = ie.length) (hqe : qe.length = ie.length)
    (hqo : qo.length = ie.length) {q : Nat} (hq : q < ie.length) :
    (interleave ie io qe qo)[2 * q]? = some (ie.getD q (.int 0), qe.getD q (.int 0)) ∧
      (interleave ie io qe qo)[2 * q + 1]? = some (io.getD q (.int 0), qo.getD q (.int 0)) := by
  induction ie generalizing io qe qo q with
  | nil => cases hq
  | cons i ie ih =>
    obtain ⟨j, io, rfl⟩ := List.exists_cons_of_length_eq_add_one hio
    obtain ⟨k, qe, rfl⟩ := List.exists_cons_of_length_eq_add_one hqe
    obtain ⟨l, qo, rfl⟩ := List.exists_cons_of_length_eq_add_one hqo
    simp only [List.length_cons, Nat.add_right_cancel_iff] at hio hqe hqo
    cases q with
    | zero => exact ⟨rfl, rfl⟩
    | succ q => exact ih hio hqe hqo (Nat.lt_of_succ_lt_succ hq)

/-- Settles O34: each quad puts its two samples in front of those of the quads behind it. -/
theorem interleaveOrder : Obligations.InterleaveOrder :=
  fun _ _ _ _ hio hqe hqo => ⟨interleave_length rfl hio hqe hqo, fun _ => interleave_getElem? hio hqe hqo⟩

end Sys2Proof.Machine
end

section
/-! PROOFS. Type A and B user data (30_encoding R116, 45_type_ab_path R300 to R304): where each component and each code
stands, what the decode of a component gives there, and the first code that is cut. -/

namespace Sys2Proof.Machine

/-! ## Where the codes stand -/

/-- Without quads no component takes a bit. -/
theorem abCodeStart_no_quads (c : Config) (k : Nat) : abCodeStart c 0 k 0 = 0 := by
  simp [abCodeStart, abComponentBits, alignUp_of_dvd c.wordUnit_pos (dvd_zero _)]

/-- The code of a quad ends within the codes of its component. -/
theorem abCodeStart_add_codeBits_le {c : Config} {nq k q n : Nat} (hq : q < n) :
    abCodeStart c nq k q + abCodeBits c ≤ abCodeStart c nq k n := by
  have := Nat.mul_le_mul_left (abCodeBits c) (Nat.succ_le_of_lt hq)
  rw [Nat.mul_succ] at this
  unfold abCodeStart
  omega

/-- A later component stands no earlier. -/
theorem abCodeStart_mono_component {c : Config} {nq k k' q : Nat} (hk : k ≤ k') :
    abCodeStart c nq k q ≤ abCodeStart c nq k' q :=
  Nat.add_le_add_right (Nat.mul_le_mul_right _ hk) _

/-- The bits needed reach to the end of the codes of the last component: no padding follows it (45_type_ab_path R304). -/
theorem abBitsNeeded_eq_end_of_last (c : Config) (nq : Nat) : abBitsNeeded c nq = abCodeStart c nq 3 nq := rfl

/-- Behind the codes of a component the next word boundary is the start of the next component (45_type_ab_path R301). -/
theorem alignUp_abCodeStart_end (c : Config) (nq k : Nat) :
    alignUp c.wordUnit (abCodeStart c nq k nq) = (k + 1) * abComponentBits c nq := by
  obtain ⟨m, hm⟩ : c.wordUnit ∣ k * abComponentBits c nq := Dvd.dvd.mul_left (dvd_alignUp ..) k
  rw [abCodeStart, hm, alignUp_add c.wordUnit_pos, ← hm, Nat.succ_mul]
  rfl

/-! ## One component -/

section
variable {c : Config} {ud : Buffer} {nq : Nat}

/-- A component whose codes are whole gives their S-values and ends where the next one starts. -/
theorem componentAB_ok {k : Nat} (hfit : abCodeStart c nq k nq ≤ 8 * bufLen ud) :
    componentAB c ud nq (k * abComponentBits c nq) =
      .ok ((List.range nq).map (abValue c ud nq k), (k + 1) * abComponentBits c nq) := by
  simp only [componentAB, codesAB_ok (.inr hfit), ← alignUp_abCodeStart_end, List.map_map]
  rfl

/-- The first component with a cut code fails at the first code that is cut (45_type_ab_path R304, 60_exceptions R327). -/
theorem componentAB_short {k : Nat} (hk : k < 4) (hcut : 8 * bufLen ud < abCodeStart c nq k nq)
    (hbefore : ∀ k', k' < k → abCodeStart c nq k' nq ≤ 8 * bufLen ud) :
    ∃ q, AbFirstMissing c ud nq k q ∧
      componentAB c ud nq (k * abComponentBits c nq) = .error ⟨.bufferTooShort, abFailOffset c ud nq k q⟩ := by
  have hshort : ¬ (nq = 0 ∨ abCodeStart c nq k nq ≤ 8 * bufLen ud) := by
    rintro (rfl | hfit)
    · rw [abCodeStart_no_quads] at hcut
      omega
    · omega
  obtain ⟨p, hp⟩ := codesAB_short hshort
  obtain ⟨q, hq, hmissing, hstart, he⟩ := codesAB_error hp
  refine ⟨q, ⟨⟨hk, hq⟩, hmissing, fun k' q' hq' hearlier => ?_⟩, ?_⟩
  · rcases hearlier with hk' | ⟨rfl, hlt⟩
    · exact (abCodeStart_add_codeBits_le hq').trans (hbefore k' hk')
    · exact (abCodeStart_add_codeBits_le hlt).trans (hstart.resolve_left (by omega))
  · rw [componentAB, hp, he]
    rfl

/-! ## The four components -/

/-- User data that holds the bits needed decodes to the samples of its layout (45_type_ab_path R302, R303). -/
theorem decodeAB_ok (hfit : abBitsNeeded c nq ≤ 8 * bufLen ud) :
    decodeAB c ud nq = .ok (abSamples c ud nq, 4 * abComponentBits c nq) := by
  rw [abBitsNeeded_eq_end_of_last] at hfit
  have hcomp (k : Nat) (hk : k ≤ 3) := componentAB_ok ((abCodeStart_mono_component hk).trans hfit)
  rw [decodeAB, ← Nat.zero_mul (abComponentBits c nq)]
  simp only [hcomp 0 (by omega), hcomp 1 (by omega), hcomp 2 (by omega), hcomp 3 (by omega)]
  exact congrArg (fun out => Except.ok (out, _))
    (interleave_map (List.range nq) fun k => abValue c ud nq (componentNumber k))

/-- An error of a component, all components before it being whole, is the error of the decode. -/
theorem decodeAB_of_componentAB_error {k : Nat} {e : Raise} (hk : k < 4)
    (hbefore : ∀ k', k' < k → abCodeStart c nq k' nq ≤ 8 * bufLen ud)
    (herr : componentAB c ud nq (k * abComponentBits c nq) = .error e) : decodeAB c ud nq = .error e := by
  have hcomp (k' : Nat) (hk' : k' < k) := componentAB_ok (hbefore k' hk')
  rw [decodeAB, ← Nat.zero_mul (abComponentBits c nq)]
  match k, hk with
  | 0, _ => simp only [herr]
  | 1, _ => simp only [hcomp 0 (by omega), herr]
  | 2, _ => simp only [hcomp 0 (by omega), hcomp 1 (by omega), herr]
  | 3, _ => simp only [hcomp 0 (by omega), hcomp 1 (by omega), hcomp 2 (by omega), herr]

/-- User data without the bits needed fails at the first code that is cut. -/
theorem decodeAB_short (hshort : 8 * bufLen ud < abBitsNeeded c nq) :
    ∃ k q, AbFirstMissing c ud nq k q ∧
      decodeAB c ud nq = .error ⟨.bufferTooShort, abFailOffset c ud nq k q⟩ := by
  rw [abBitsNeeded_eq_end_of_last] at hshort
  have hex : ∃ k, 8 * bufLen ud < abCodeStart c nq k nq := ⟨3, hshort⟩
  have hk : Nat.find hex < 4 := Nat.lt_succ_of_le (Nat.find_min' hex hshort)
  have hbefore : ∀ k', k' < Nat.find hex → abCodeStart c nq k' nq ≤ 8 * bufLen ud :=
    fun k' hk' => Nat.le_of_not_lt (Nat.find_min hex hk')
  obtain ⟨q, hmissing, herr⟩ := componentAB_short hk (Nat.find_spec hex) hbefore
  exact ⟨_, q, hmissing, decodeAB_of_componentAB_error hk hbefore herr⟩

end

/-! ## GET_SAMPLES of a Type A or B packet -/

section
variable {s : State} (hp : s.status.pktValid = true) (hc : s.status.cacheValid = false) (hf : s.fmt = .a ∨ s.fmt = .b)
include hp hc hf

/-- The body of GET_SAMPLES caches what DecodeAB answers. -/
theorem getSamplesResult_typeAB :
    getSamplesResult s = (decodeAB s.cfg s.ud s.nq.toNat).map fun r => cacheSamples s r.1 := by
  rw [getSamplesResult_of_uncached hp hc]
  rcases hf with hf | hf <;> simp only [decodePacket, hf] <;> cases decodeAB s.cfg s.ud s.nq.toNat <;> rfl

theorem exec_getSamples_typeAB_fits (hfit : abBitsNeeded s.cfg s.nq.toNat ≤ 8 * bufLen s.ud) :
    exec .getSamples s = .next (completeOk (cacheSamples s (abSamples s.cfg s.ud s.nq.toNat))) :=
  exec_getSamples_ok (by rw [getSamplesResult_typeAB hp hc hf, decodeAB_ok hfit]; rfl)

/-- The failure keeps BRC and THIDX (log 11). -/
theorem exec_getSamples_typeAB_short (hshort : 8 * bufLen s.ud < abBitsNeeded s.cfg s.nq.toNat) :
    ∃ k q, AbFirstMissing s.cfg s.ud s.nq.toNat k q ∧
      exec .getSamples s =
        .next (completeRaise s ⟨.bufferTooShort, abFailOffset s.cfg s.ud s.nq.toNat k q⟩) := by
  obtain ⟨k, q, hmissing, herr⟩ := decodeAB_short hshort
  have hbody := getSamplesResult_typeAB hp hc hf
  rw [herr] at hbody
  exact ⟨k, q, hmissing, exec_getSamples_rejected hbody (by rcases hf with hf | hf <;> simp [decodesTypeD, hf])⟩

end

/-- Settles O27: each component starts at a word boundary and gives the S-values of its codes, which are interleaved. -/
theorem typeABSamples : Obligations.TypeABSamples := fun _ hp hc hf => exec_getSamples_typeAB_fits hp hc hf

/-- Settles O28: user data of the bits needed is decoded; shorter data has a first component that is cut, and in it a
first code, at which the decode fails. -/
theorem typeABLengthNeeded : Obligations.TypeABLengthNeeded := by
  refine ⟨fun c nq hmag => ?_, fun s hp hc hf => ?_⟩
  · have hbits : abCodeBits c = 10 := by
      obtain ⟨-, hsign, -⟩ := c.fieldBits_range
      rw [abCodeBits, hsign, hmag]
    rw [abBitsNeeded, abComponentBits, hbits]
  · obtain hfit | hshort := le_or_gt (abBitsNeeded s.cfg s.nq.toNat) (8 * bufLen s.ud)
    · exact ⟨_, exec_getSamples_typeAB_fits hp hc hf hfit, iff_of_true rfl hfit, fun hfail => by cases hfail⟩
    · obtain ⟨k, q, hmissing, hexec⟩ := exec_getSamples_typeAB_short hp hc hf hshort
      exact ⟨_, hexec, iff_of_false (by intro hok; cases hok) hshort.not_ge, fun _ => ⟨k, q, hmissing, rfl⟩⟩

end Sys2Proof.Machine
end

section
/-! PROOFS. How a command ends: with what record, what a failing one writes, and which codes it records
(60_exceptions R320 to R325, R347). -/

namespace Sys2Proof.Machine

/-! ## Every command ends -/

/-- Completion clears BUSY and leaves LAST_OK or ERR set. -/
theorem complete_ends (s : State) (r : Except Raise State) :
    (complete s r).status.busy = false ∧ ((complete s r).status.lastOk = true ∨ (complete s r).status.err = true) := by
  cases r with
  | ok u => exact ⟨rfl, .inl rfl⟩
  | error e => exact ⟨rfl, .inr rfl⟩

/-- Settles O7: every command is a completion, and its frame keeps configuration, queue and reply. -/
theorem everyCommandEnds : Obligations.EveryCommandEnds := by
  intro i s
  have hk := exec_keeps (exec_eq_complete i s)
  obtain ⟨hbusy, hend⟩ := complete_ends (commandBase i s) (commandBody i s)
  exact ⟨_, exec_eq_complete i s, hbusy, hend, hk.cfg, hk.pending, hk.reply⟩

/-! ## The completion record -/

/-- The state in which an error is recorded has the STATUS and the ERRPOS the command started from. -/
theorem commandBase_record (i : Instr) (s : State) :
    (commandBase i s).status = s.status ∧ (commandBase i s).errPos = s.errPos := by
  cases i with
  | getSamples =>
    cases hd : decodesTypeD s with
    | false => simp [commandBase, afterFailedSamples, hd]
    | true => simp [commandBase, afterFailedSamples, hd]
  | _ => exact ⟨rfl, rfl⟩

/-- A first error is recorded with its code and its position modulo 2^32. -/
theorem completeRaise_first {s : State} (h : s.status.err = false) (e : Raise) :
    completeRaise s e = { s with
      errPos := BitVec.ofNat 32 (e.pos % 2 ^ 32),
      status := { s.status with lastOk := false, err := true, errCode := errCode e.kind, busy := false } } := by
  have hpos : BitVec.ofNat 32 (e.pos % 2 ^ 32) = BitVec.ofNat 32 e.pos := BitVec.eq_of_toNat_eq (by simp)
  simp only [completeRaise, statusRaised, h, hpos, cond_false, Bool.or_false]

/-- A later error sets MULTI_ERR and keeps the first one. -/
theorem completeRaise_later {s : State} (h : s.status.err = true) (e : Raise) :
    completeRaise s e = { s with status := { s.status with lastOk := false, multiErr := true, busy := false } } := by
  simp [completeRaise, statusRaised, h]

/-- Settles O38: every command is a completion, which an earlier error does not change, and completion is one of the three
records. -/
theorem completionRecord : Obligations.CompletionRecord := by
  refine ⟨fun i s => ⟨_, _, exec_eq_complete i s, commandBase_record i s⟩, fun i s e => ?_, fun _ _ => rfl,
    fun s e => ⟨fun h => completeRaise_first h e, fun h => completeRaise_later h e⟩, rfl⟩
  obtain ⟨t, ht⟩ := exec_next i s
  obtain ⟨t', ht', hsame⟩ :=
    errorRecordBlocksNothing i s t e s.status.multiErr s.status.lastOk s.status.errCode s.errPos ht
  exact ⟨t, t', ht, ht', by rw [hsame]⟩

/-! ## What a failing command writes -/

/-- Settles O39: of the three ways a command ends, one succeeds, one records its error on the state it started from, and
one is the failed Type D decode. -/
theorem failedCommandWritesNothing : Obligations.FailedCommandWritesNothing := by
  intro i s t h hfail
  rcases exec_cases h with ⟨u, -, rfl⟩ | ⟨e, rfl, -⟩ | ⟨e, rfl, hd⟩
  · cases hfail
  · exact ⟨rfl, fun _ => ⟨rfl, rfl, rfl⟩⟩
  · exact ⟨rfl, fun hn => absurd hd hn⟩

/-! ## The kinds that are raised -/

theorem producedCode_errCode {k : ErrKind} (h : k ≠ .invalidCode) : producedCode (errCode k) := by
  unfold producedCode
  cases k with
  | invalidCode => exact absurd rfl h
  | _ => decide

theorem ErrKind.IsBitStream.ne_invalidCode {k : ErrKind} (h : k.IsBitStream) : k ≠ .invalidCode := by
  rcases h with rfl | rfl | rfl <;> decide

section
variable {c : Config} {buf : Buffer} {e : Raise}

theorem readBits_error_ne_invalidCode {p n : Nat} (h : readBits c buf p n = .error e) : e.kind ≠ .invalidCode := by
  rcases readBits_error_iff.mp h with ⟨-, rfl⟩ | ⟨-, -, rfl⟩
  · nofun
  · nofun

theorem extractFields_error_ne_invalidCode {tab : List Field} {off : Nat} (h : extractFields c buf tab off = .error e) :
    e.kind ≠ .invalidCode := by
  induction tab generalizing off with
  | nil => cases h
  | cons f fs ih =>
    unfold extractFields at h
    split at h
    · next hr => cases h; exact readBits_error_ne_invalidCode hr
    split at h
    · next hfs => cases h; exact ih hfs
    · cases h

theorem decodeAB_error_ne_invalidCode {nq : Nat} (h : decodeAB c buf nq = .error e) : e.kind ≠ .invalidCode := by
  obtain hfit | hshort := le_or_gt (abBitsNeeded c nq) (8 * bufLen buf)
  · rw [decodeAB_ok hfit] at h
    cases h
  · obtain ⟨k, q, -, herr⟩ := decodeAB_short hshort
    rw [herr] at h
    cases h
    nofun

theorem decodeD_error_ne_invalidCode {nq nb : Nat} (h : decodeD c buf nq nb = .error e) : e.kind ≠ .invalidCode := by
  rcases decodeD_error_cases h with hcodes | rfl
  · exact (codesD_error_isBitStream hcodes).ne_invalidCode
  · nofun

end

section
variable {s : State} {e : Raise}

theorem constructResult_error_ne_invalidCode (h : constructResult s = .error e) : e.kind ≠ .invalidCode := by
  unfold constructResult at h
  split_ifs at h
  · cases h; nofun
  · split at h
    · cases h; nofun
    · cases h
  · cases h; nofun

theorem decodePacket_error_ne_invalidCode (h : decodePacket s = .error e) : e.kind ≠ .invalidCode := by
  unfold decodePacket at h
  split at h
  case h_1 => cases h; nofun
  case h_4 =>
    split at h
    · next hd => cases h; exact decodeD_error_ne_invalidCode hd
    · cases h
  all_goals
    split at h
    · next hd => cases h; exact decodeAB_error_ne_invalidCode hd
    · cases h

theorem getSamplesResult_error_ne_invalidCode (h : getSamplesResult s = .error e) : e.kind ≠ .invalidCode := by
  unfold getSamplesResult at h
  split_ifs at h
  · exact decodePacket_error_ne_invalidCode h
  · cases h; nofun

/-- No command raises InvalidCode (60_exceptions R322). -/
theorem commandBody_error_ne_invalidCode {i : Instr} (h : commandBody i s = .error e) : e.kind ≠ .invalidCode := by
  cases i with
  | readBits b a n =>
    simp only [commandBody, readBitsResult] at h
    split at h
    · next hr => cases h; exact readBits_error_ne_invalidCode hr
    · cases h
  | align =>
    simp only [commandBody, alignResult] at h
    split_ifs at h
    cases h
    nofun
  | huff b m =>
    simp only [commandBody, huffResult] at h
    split at h
    · next hd => cases h; exact (huffDecode_error_isBitStream hd).ne_invalidCode
    · cases h
  | extract b t =>
    simp only [commandBody, extractResult] at h
    split_ifs at h
    · cases h; nofun
    split at h
    · next hx => cases h; exact extractFields_error_ne_invalidCode hx
    · cases h
  | construct => exact constructResult_error_ne_invalidCode h
  | getSamples => exact getSamplesResult_error_ne_invalidCode h

end

/-! ## The recorded code -/

/-- An error recorded in STATUS has a code the core produces. -/
def RecordedCodeProduced (t : Status) : Prop := t.err = true → producedCode t.errCode

theorem RecordedCodeProduced.raised {t : Status} (h : RecordedCodeProduced t) {k : ErrKind} (hk : k ≠ .invalidCode) :
    RecordedCodeProduced (statusRaised t k) := by
  intro _
  cases he : t.err with
  | false => simpa [he] using producedCode_errCode hk
  | true => simpa [he] using h he

/-- A command that fails recorded one of those errors. -/
theorem exec_failed {i : Instr} {s t : State} (h : exec i s = .next t) (hfail : t.status.lastOk = false) :
    ∃ e : Raise, e.kind ≠ .invalidCode ∧ t = completeRaise (commandBase i s) e := by
  rw [exec_eq_complete] at h
  cases h
  cases hbody : commandBody i s with
  | ok u =>
    rw [hbody] at hfail
    cases hfail
  | error e => exact ⟨e, commandBody_error_ne_invalidCode hbody, rfl⟩

/-- A success leaves the record of an earlier error, and a failure keeps it or records a code that is produced. -/
theorem exec_recordedCodeProduced {i : Instr} {s t : State} (hs : RecordedCodeProduced s.status)
    (h : exec i s = .next t) : RecordedCodeProduced t.status := by
  cases hok : t.status.lastOk with
  | false =>
    obtain ⟨e, hk, rfl⟩ := exec_failed h hok
    obtain ⟨hstatus, -⟩ := commandBase_record i s
    rw [← hstatus] at hs
    exact hs.raised hk
  | true =>
    rcases exec_cases h with ⟨u, hu, rfl⟩ | ⟨e, rfl, -⟩ | ⟨e, rfl, -, -⟩
    · obtain ⟨herr, -, hcode, -⟩ := effect_record hu
      simpa [RecordedCodeProduced, herr, hcode] using hs
    · cases hok
    · cases hok

/-- Settles O50: a command records produced codes only, an illegal word IllegalCommand, and no other transaction sets
ERR. -/
theorem stepKeepsProducedCodes : Obligations.StepKeepsProducedCodes := by
  intro s t hs h
  change RecordedCodeProduced s.status at hs
  change RecordedCodeProduced t.status
  cases step_cases h with
  | idle _ ht => rw [ht]; exact hs
  | reset _ ht => rw [ht]; nofun
  | load _ _ _ ht => rw [ht]; exact hs
  | command _ _ _ ht => exact exec_recordedCodeProduced (s := startCommand (takeNext s _)) hs ht
  | illegal _ _ _ ht =>
    rw [ht]
    exact RecordedCodeProduced.raised (t := (startCommand (takeNext s _)).status) hs nofun
  | clear _ _ _ ht => rw [ht]; nofun
  | cursor _ _ ht => rw [ht]; exact hs
  | ignored _ _ ht => rw [ht]; exact hs
  | read _ _ _ _ ht => rw [ht]; exact hs

end Sys2Proof.Machine
end

section
/-! PROOFS. The core with no transaction, and the array reads (60_exceptions R344, R345). -/

namespace Sys2Proof.Machine

/-- Settles O6: with an empty queue the step performs no transaction. -/
theorem coreIdlesWithoutTransaction : Obligations.CoreIdlesWithoutTransaction := fun _ => step_of_idle

section
variable {s : State}

theorem transact_rdMap {m : Bool} {i : Nat} (h : HostDuty (.rdMap m i) s) :
    transact (.rdMap m i) s = .next (giveReply s (.field ((selMap s m).getD i 0#64))) := by
  obtain ⟨hb, hr⟩ := h
  simp [transact, hb, mapReadable_iff.mpr hr]

theorem transact_rdOut {k : Nat} (h : HostDuty (.rdOut k) s) :
    transact (.rdOut k) s = .next (giveReply s (sampleReply (outAt s.out k))) := by
  obtain ⟨hb, hr⟩ := h
  simp [transact, hb, outReadable_iff.mpr hr]

theorem transact_rdSide {b : Nat} (h : HostDuty (.rdSide b) s) :
    transact (.rdSide b) s = .next (giveReply s (.side (brcAt s.brc b) (thidxAt s.thidx b))) := by
  obtain ⟨hb, hr⟩ := h
  simp [transact, hb, sideReadable_iff.mpr hr]

end

/-- Settles O56: the conditions are the duty of the read, and the reply reads the entry. -/
theorem hostArrayReads : Obligations.HostArrayReads := fun _ _ hb =>
  ⟨fun _ hp hv hi => (step_of_pending hp).trans (transact_rdMap (m := false) ⟨hb, hv, hi⟩),
    fun _ hp hv hi => (step_of_pending hp).trans (transact_rdMap (m := true) ⟨hb, hv, hi⟩),
    fun _ hp hc hk => (step_of_pending hp).trans (transact_rdOut ⟨hb, hc, hk⟩),
    fun _ hp hc hf hn => (step_of_pending hp).trans (transact_rdSide ⟨hb, hc, hf, hn⟩)⟩

end Sys2Proof.Machine
end

section
/-! PROOFS. Where a Type D decode fails (60_exceptions R327, 44_type_d_path R260, R271). The dry run goes on behind a quad
that fails as if its code had length 0: its cursors are a layout of the whole packet, and the decode fails at the first quad
that the dry run cannot read. -/

namespace Sys2Proof.Machine

/-! ## The dry run of a packet -/

/-- The code of quad `q` from the context before it; symbol 0 and length 0 where there is none. -/
def dryCode (c : Config) (ud : Buffer) (k : Component) (q : Nat) (x : DecodeCtx) : Byte × Nat :=
  (huffDecode c ud (brcAt (afterSide c ud k q x).brc (q / c.blockQ)).toNat
    (x.ic + sideOffset c k q + 1)).toOption.getD (0#8, 0)

/-- The context before quad `q` of a component that starts in `x`. -/
def dryRun (c : Config) (ud : Buffer) (k : Component) (x : DecodeCtx) : Nat → DecodeCtx
  | 0 => x
  | q + 1 =>
    let y := dryRun c ud k x q
    { afterSide c ud k q y with ic := y.ic + sideOffset c k q + 1 + (dryCode c ud k q y).2 }

/-- The context after a whole component, at the next word boundary. -/
def dryEnd (c : Config) (ud : Buffer) (nq : Nat) (k : Component) (x : DecodeCtx) : DecodeCtx :=
  atBoundary c (dryRun c ud k x nq)

/-- The context in which a component of the packet starts. -/
def dryStart (c : Config) (ud : Buffer) (nq : Nat) : Component → DecodeCtx
  | .ie => ⟨0, [], []⟩
  | .io => dryEnd c ud nq .ie ⟨0, [], []⟩
  | .qe => dryEnd c ud nq .io (dryEnd c ud nq .ie ⟨0, [], []⟩)
  | .qo => dryEnd c ud nq .qe (dryEnd c ud nq .io (dryEnd c ud nq .ie ⟨0, [], []⟩))

/-- The context before quad `q` of a component of the packet. -/
def dryCtx (c : Config) (ud : Buffer) (nq : Nat) (k : Component) (q : Nat) : DecodeCtx :=
  dryRun c ud k (dryStart c ud nq k) q

/-- The BRCs of the packet: those IE has read at its end. -/
def dryBrc (c : Config) (ud : Buffer) (nq : Nat) : List (BitVec 3) := (dryCtx c ud nq .ie nq).brc

/-- The threshold indexes of the packet: those QE has read at its end. -/
def dryThidx (c : Config) (ud : Buffer) (nq : Nat) : List (BitVec 8) := (dryCtx c ud nq .qe nq).thidx

/-- The layout of the dry run. -/
def dryLayout (c : Config) (ud : Buffer) (nq : Nat) : Layout where
  cur k q := (dryCtx c ud nq k q).ic
  sym k q := (dryCode c ud k q (dryCtx c ud nq k q)).1
  len k q := (dryCode c ud k q (dryCtx c ud nq k q)).2
  val _ _ := .int 0

/-! ## The decode follows the dry run up to the quad that fails -/

/-- Quad `q` of a component that starts in `x` is read, from its context to the next. -/
def DryRead (c : Config) (ud : Buffer) (k : Component) (x : DecodeCtx) (q : Nat) : Prop :=
  ∃ a, quadStep c ud k q (dryRun c ud k x q) = .ok (a, dryRun c ud k x (q + 1))

section
variable {c : Config} {ud : Buffer} {k : Component} {x : DecodeCtx}

theorem dryRun_succ_of_quadStep {q : Nat} {a : Code} {z : DecodeCtx}
    (h : quadStep c ud k q (dryRun c ud k x q) = .ok (a, z)) : z = dryRun c ud k x (q + 1) := by
  obtain ⟨-, -, sym, len, hcode, -, rfl⟩ := (quadStep_ok ..).mp h
  simp only [dryRun, dryCode, hcode]
  rfl

/-- A trace goes through the contexts of the dry run. -/
theorem QuadTrace.eq_dryRun {n : Nat} {X : Nat → DecodeCtx} {K : Nat → Code} (h : QuadTrace c ud k n X K) {q : Nat}
    (hq : q ≤ n) : X q = dryRun c ud k (X 0) q := by
  induction q with
  | zero => rfl
  | succ q ih =>
    have hstep := h q hq
    rw [ih (by omega)] at hstep
    exact dryRun_succ_of_quadStep hstep

theorem QuadTrace.dryRead {n : Nat} {X : Nat → DecodeCtx} {K : Nat → Code} (h : QuadTrace c ud k n X K) {q : Nat}
    (hq : q < n) : DryRead c ud k (X 0) q := by
  refine ⟨K q, ?_⟩
  rw [← h.eq_dryRun hq.le, ← h.eq_dryRun hq]
  exact h q hq

/-- A component that decodes is read quad by quad, and ends where the dry run ends. -/
theorem componentD_ok_dryRun {nq : Nat} {ks : List Code} {y : DecodeCtx}
    (h : componentD c ud k nq (ceilDiv nq c.blockQ) x = .ok (ks, y)) :
    y = dryEnd c ud nq k x ∧ ∀ q, q < nq → DryRead c ud k x q := by
  obtain ⟨X, K, rfl, rfl, -, ht⟩ := (componentD_ok ..).mp h
  exact ⟨congrArg (atBoundary c) (ht.eq_dryRun le_rfl), fun q => ht.dryRead⟩

/-- A component that fails is read up to a quad, which fails. -/
theorem componentD_error_dryRun {nq : Nat} {e : Raise}
    (h : componentD c ud k nq (ceilDiv nq c.blockQ) x = .error e) :
    ∃ m, m < nq ∧ (∀ q, q < m → DryRead c ud k x q) ∧ quadStep c ud k m (dryRun c ud k x m) = .error e := by
  obtain ⟨m, hm, X, K, rfl, ht, he⟩ := componentD_error c ud k nq x e h
  rw [ht.eq_dryRun le_rfl] at he
  exact ⟨m, hm, fun q => ht.dryRead, he⟩

end

section
variable {c : Config} {ud : Buffer} {nq : Nat}

/-- A bit-stream that does not decode fails at a quad of a component, every quad before it in decode order being read
(44_type_d_path R260). -/
theorem codesD_error_dryRun {e : Raise} (h : codesD c ud nq (ceilDiv nq c.blockQ) = .error e) :
    ∃ k m, m < nq ∧ quadStep c ud k m (dryCtx c ud nq k m) = .error e ∧
      ∀ k' q, q < nq → componentNumber k' < componentNumber k ∨ (k' = k ∧ q < m) →
        DryRead c ud k' (dryStart c ud nq k') q := by
  suffices hfail : ∃ k, componentD c ud k nq (ceilDiv nq c.blockQ) (dryStart c ud nq k) = .error e ∧
      ∀ k', componentNumber k' < componentNumber k → ∀ q, q < nq → DryRead c ud k' (dryStart c ud nq k') q by
    obtain ⟨k, hk, hbefore⟩ := hfail
    obtain ⟨m, hm, hread, he⟩ := componentD_error_dryRun hk
    refine ⟨k, m, hm, he, fun k' q hq hearlier => ?_⟩
    rcases hearlier with hlt | ⟨rfl, hlt⟩
    · exact hbefore k' hlt q hq
    · exact hread q hlt
  unfold codesD at h
  split at h
  · next hie => cases h; exact ⟨.ie, hie, fun k' hk' => absurd hk' (Nat.not_lt_zero _)⟩
  next hie =>
  obtain ⟨rfl, rie⟩ := componentD_ok_dryRun hie
  split at h
  · next hio =>
    cases h
    refine ⟨.io, hio, fun k' hk' => ?_⟩
    cases k' with
    | ie => exact rie
    | _ => exact absurd hk' (by decide)
  next hio =>
  obtain ⟨rfl, rio⟩ := componentD_ok_dryRun hio
  split at h
  · next hqe =>
    cases h
    refine ⟨.qe, hqe, fun k' hk' => ?_⟩
    cases k' with
    | ie => exact rie
    | io => exact rio
    | _ => exact absurd hk' (by decide)
  next hqe =>
  obtain ⟨rfl, rqe⟩ := componentD_ok_dryRun hqe
  split at h
  · next hqo =>
    cases h
    refine ⟨.qo, hqo, fun k' hk' => ?_⟩
    cases k' with
    | ie => exact rie
    | io => exact rio
    | qe => exact rqe
    | qo => exact absurd hk' (by decide)
  · cases h

end

/-! ## The dry run is a layout with its side information -/

section
variable (c : Config) (ud : Buffer) (nq : Nat)

theorem dryLayout_starts : (dryLayout c ud nq).Starts c nq := ⟨rfl, rfl, rfl, rfl⟩

/-- No component but IE reads a BRC. -/
theorem dryRun_brc {k : Component} (hk : k ≠ .ie) (x : DecodeCtx) (q : Nat) : (dryRun c ud k x q).brc = x.brc := by
  induction q with
  | zero => rfl
  | succ q ih => simp [dryRun, afterSide, readBrc, hk, ih]

/-- No component but QE reads a threshold index. -/
theorem dryRun_thidx {k : Component} (hk : k ≠ .qe) (x : DecodeCtx) (q : Nat) :
    (dryRun c ud k x q).thidx = x.thidx := by
  induction q with
  | zero => rfl
  | succ q ih => simp [dryRun, afterSide, readThidx, hk, ih]

/-- After IE every context holds all BRCs of the packet. -/
theorem dryCtx_brc_of_ne_ie {k : Component} (hk : k ≠ .ie) (q : Nat) : (dryCtx c ud nq k q).brc = dryBrc c ud nq := by
  rw [dryCtx, dryRun_brc c ud hk]
  cases k with
  | ie => exact absurd rfl hk
  | io => rfl
  | qe => simp [dryStart, dryEnd, dryRun_brc, dryBrc, dryCtx]
  | qo => simp [dryStart, dryEnd, dryRun_brc, dryBrc, dryCtx]

theorem dryStart_qe_thidx : (dryStart c ud nq .qe).thidx = [] := by simp [dryStart, dryEnd, dryRun_thidx]

theorem dryBrc_length : (dryBrc c ud nq).length = ceilDiv nq c.blockQ :=
  length_of_blocks (f := fun q => (dryCtx c ud nq .ie q).brc) c.blockQ_pos rfl (fun _ _ => rfl)
    (fun q => readBrc_ie_length c ud q _) le_rfl

theorem dryThidx_length : (dryThidx c ud nq).length = ceilDiv nq c.blockQ :=
  length_of_blocks (f := fun q => (dryCtx c ud nq .qe q).thidx) c.blockQ_pos (dryStart_qe_thidx c ud nq)
    (fun _ _ => rfl) (fun q => readThidx_qe_length c ud q _) le_rfl

/-- Every context of the dry run holds the BRCs read so far. -/
theorem dryCtx_brc (k : Component) {q : Nat} (hq : q ≤ nq) :
    (dryCtx c ud nq k q).brc = brcBefore c (dryBrc c ud nq) q k := by
  by_cases hk : k = .ie
  · subst hk
    exact eq_take_of_blocks (f := fun q => (dryCtx c ud nq .ie q).brc) c.blockQ_pos rfl (fun _ _ => rfl)
      (fun q => readBrc_ie_length c ud q _) hq
  · rw [dryCtx_brc_of_ne_ie c ud nq hk, brcBefore_of_ne_ie c _ q hk]

/-- Every context of the dry run holds the threshold indexes read so far. -/
theorem dryCtx_thidx (k : Component) {q : Nat} (hq : q ≤ nq) :
    (dryCtx c ud nq k q).thidx = thidxBefore c (dryThidx c ud nq) q k := by
  cases k with
  | ie => exact dryRun_thidx c ud (by decide) _ q
  | io => simp [dryCtx, dryStart, dryEnd, dryRun_thidx, thidxBefore]
  | qe =>
    exact eq_take_of_blocks (f := fun q => (dryCtx c ud nq .qe q).thidx) c.blockQ_pos (dryStart_qe_thidx c ud nq)
      (fun _ _ => rfl) (fun q => readThidx_qe_length c ud q _) hq
  | qo => exact dryRun_thidx c ud (by decide) _ q

end

section
variable {c : Config} {ud : Buffer} {nq : Nat} {k : Component} {q : Nat} (hq : q < nq)
include hq

/-- The side information of a quad is read as laid out exactly when it is there and legal. -/
theorem dryLayout_sideRead_iff :
    (dryLayout c ud nq).SideRead c ud (dryBrc c ud nq) (dryThidx c ud nq) k q ↔
      SideFits c ud k q (dryCtx c ud nq k q).ic := by
  rw [sideRead_iff (dryBrc_length c ud nq) (dryThidx_length c ud nq) hq, ← dryCtx_brc c ud nq k hq.le,
    ← dryCtx_brc c ud nq k hq, ← dryCtx_thidx c ud nq k hq.le, ← dryCtx_thidx c ud nq k hq]
  exact and_iff_left ⟨rfl, rfl⟩

/-- The code of a quad is read under the BRC of its block. -/
theorem brcAt_afterSide_dryCtx :
    brcAt (afterSide c ud k q (dryCtx c ud nq k q)).brc (q / c.blockQ) = brcAt (dryBrc c ud nq) (q / c.blockQ) := by
  rw [← brcAt_brcBefore_succ c (dryBrc c ud nq) k, ← dryCtx_brc c ud nq k hq]
  rfl

/-- A quad that the dry run reads is read as laid out. -/
theorem DryRead.quadRead (h : DryRead c ud k (dryStart c ud nq k) q) :
    (dryLayout c ud nq).QuadRead c ud (dryBrc c ud nq) (dryThidx c ud nq) k q := by
  obtain ⟨a, hstep⟩ := h
  obtain ⟨hside, hsign, sym, len, hcode, -, -⟩ := (quadStep_ok c ud k q (dryCtx c ud nq k q) ..).mp hstep
  have hdry : dryCode c ud k q (dryCtx c ud nq k q) = (sym, len) := by
    rw [dryCode, hcode]
    rfl
  rw [brcAt_afterSide_dryCtx hq, ← hdry] at hcode
  exact ⟨(dryLayout_sideRead_iff hq).mpr hside, hsign, hcode, rfl⟩

/-- A quad at which the dry run fails fails as laid out, with the same error. -/
theorem dryLayout_quadFails {e : Raise} (h : quadStep c ud k q (dryCtx c ud nq k q) = .error e) :
    (dryLayout c ud nq).QuadFails c ud (dryBrc c ud nq) (dryThidx c ud nq) k q e := by
  rcases quadStep_error c ud k q _ e h with hside | ⟨hm, rfl, hbrc⟩ | ⟨hside, hsign⟩ | ⟨hside, hsign, hpos, hcode⟩
  · exact .inl hside
  · exact .inr (.inl ⟨hm, rfl, hbrc⟩)
  · exact .inr (.inr (.inl ⟨(dryLayout_sideRead_iff hq).mpr hside, hsign⟩))
  · rw [brcAt_afterSide_dryCtx hq] at hcode
    exact .inr (.inr (.inr ⟨(dryLayout_sideRead_iff hq).mpr hside, hsign, hpos, hcode⟩))

end

/-- A Type D decode that fails has its error recorded on the state with BRC and THIDX free (log 9). -/
theorem exec_getSamples_typeD_error {s : State} {e : Raise} (hp : s.status.pktValid = true)
    (hc : s.status.cacheValid = false) (hf : s.fmt = .d)
    (hd : decodeD s.cfg s.ud s.nq.toNat s.nb.toNat = .error e) :
    exec .getSamples s = .next (completeRaise (scrambleSide s) e) := by
  have hbody : getSamplesResult s = .error e := by
    simp only [getSamplesResult_of_uncached hp hc, decodePacket, hf, hd]
  rw [exec_getSamples_error hbody, afterFailedSamples, if_pos (by simp [decodesTypeD, hp, hc, hf])]

/-- Settles O59: a bit-stream that decodes fails in a reconstruction only; one that does not fails where the dry run
does, whose layout is read up to there. -/
theorem typeDErrorPosition : Obligations.TypeDErrorPosition := by
  intro s e hp hc hf hnb hd
  refine ⟨exec_getSamples_typeD_error hp hc hf hd, ?_⟩
  obtain ⟨-, hmagnitude⟩ := bitStreamErrorsFirst s.cfg s.ud s.nq.toNat s.nb.toNat e
  cases hcodes : codesD s.cfg s.ud s.nq.toNat s.nb.toNat with
  | ok r => exact .inl ⟨hmagnitude ⟨r, hcodes⟩ hd, r, rfl⟩
  | error e' =>
    rw [decodeD_of_codesD_error hcodes] at hd
    cases hd
    rw [hnb] at hcodes
    obtain ⟨k, q, hq, hfail, hread⟩ := codesD_error_dryRun hcodes
    exact .inr ⟨dryLayout .., _, _, k, q, hq, dryLayout_starts .., dryLayout_quadFails hq hfail,
      fun k' q' hq' hearlier => (hread k' q' hq' hearlier).quadRead hq'⟩

end Sys2Proof.Machine
end

section
/-! PROOFS. Reads at or past the end of a buffer (40_bit_reader R140), and the two buffers that have no bits: UD after its
release and every buffer after reset (70_reset_and_hazards R363, R376). -/

namespace Sys2Proof.Machine

/-! ## Reads that start at or past the end of a buffer -/

section
variable {c : Config} {buf : Buffer} {p : Nat} (hend : 8 * bufLen buf ≤ p)
include hend

theorem readBits_past_end {n : Nat} (h1 : 1 ≤ n) (h64 : n ≤ 64) : readBits c buf p n = .error ⟨.bufferTooShort, p⟩ :=
  readBits_short h1 h64 (by omega)

/-- The search has no length to compare: none fits, and START_LEN is at least 1. -/
theorem huffSearch_past_end {b : Nat} (hb : b ≤ c.brcMax) : huffSearch c buf b p = .error ⟨.bufferTooShort, p⟩ := by
  have hstart := (c.mode_startLen hb).1
  have hmax := c.huffMaxLen_range.1
  rw [huffSearch_noKey hb fun k _ _ _ => by omega, if_pos (by omega)]

/-- In every legal mode the decode ends at its first read, that of the shortcut or that of the search. -/
theorem huffDecode_past_end {b : Nat} (hb : b ≤ c.brcMax) : huffDecode c buf b p = .error ⟨.bufferTooShort, p⟩ := by
  by_cases h4 : b = 4
  · subst h4
    have hsc := c.shortcut_range.1.1
    exact huffDecode_four_short hb (by omega)
  · rw [huffDecode_eq_search_of_ne_four hb h4, huffSearch_past_end hend hb]

/-- A table with a row ends at its first one. -/
theorem extractFields_past_end {tab : List Field} (hw : ∀ f ∈ tab, 1 ≤ f.width ∧ f.width ≤ 64) (hne : tab ≠ []) :
    extractFields c buf tab p = .error ⟨.bufferTooShort, p⟩ := by
  cases tab with
  | nil => exact absurd rfl hne
  | cons f fs =>
    obtain ⟨⟨h1, h64⟩, -⟩ := List.forall_mem_cons.mp hw
    exact extractFields_cons_head_error (readBits_past_end hend h1 h64)

end

/-- Each table has the fields that CONSTRUCT reads, so it has a row. -/
theorem selTable_ne_nil (c : Config) (secondary : Bool) : selTable c secondary ≠ [] := by
  obtain ⟨hlength, hquads, -⟩ := c.required_fields
  cases secondary with
  | false => exact fun h : c.phTable = [] => by simp [h, hasField] at hlength
  | true => exact fun h : c.shTable = [] => by simp [h, hasField] at hquads

/-! ## The commands that read a buffer from its end on -/

section
variable {s : State} {b : BufSel} (hend : 8 * bufLen (selBuf s b) ≤ s.cur.toNat)
include hend

theorem exec_readBits_past_end (a : Bool) {n : BitVec 7} (h1 : 1 ≤ n.toNat) (h64 : n.toNat ≤ 64) :
    exec (.readBits b a n) s = .next (completeRaise s ⟨.bufferTooShort, s.cur.toNat⟩) :=
  exec_readBits_error a (readBits_past_end hend h1 h64)

theorem exec_huff_past_end {m : BitVec 3} (hm : m.toNat ≤ s.cfg.brcMax) :
    exec (.huff b m) s = .next (completeRaise s ⟨.bufferTooShort, s.cur.toNat⟩) :=
  exec_huff_error (huffDecode_past_end hend hm)

end

/-- EXTRACT reads from bit 0 whatever CUR is (92 D45). -/
theorem exec_extract_empty {s : State} {b : BufSel} (hb : bufLen (selBuf s b) = 0) {m : BitVec 3} (hm : m.toNat ≤ 1) :
    exec (.extract b m) s = .next (completeRaise s ⟨.bufferTooShort, 0⟩) :=
  exec_extract_error hm (extractFields_past_end (by omega) (selTable_widths _ _) (selTable_ne_nil _ _))

/-! ## The released user data -/

/-- A first successful GET_SAMPLES releases UD, whichever decode it took (43_packet R230). -/
theorem exec_getSamples_releases {s t : State} (hc : s.status.cacheValid = false) (h : exec .getSamples s = .next t)
    (hok : t.status.lastOk = true) : t.ud = releasedBuffer s.free ∧ t.status.udReleased = true := by
  obtain ⟨u, ⟨-, hu⟩, rfl⟩ := exec_effect h hok
  obtain ⟨hcached, -⟩ | ⟨-, -, out, ic, -, rfl⟩ | ⟨-, -, out, brc, thidx, -, rfl⟩ := hu
  · simp [hc] at hcached
  · exact ⟨rfl, rfl⟩
  · exact ⟨rfl, rfl⟩

/-- Settles O37: the released UD has no bits, so CUR is past its end. -/
theorem releasedDataUnreadable : Obligations.ReleasedDataUnreadable := by
  intro s t _ hc h hok
  obtain ⟨hud, hreleased⟩ := exec_getSamples_releases hc h hok
  have hlen : t.ud.len = 0#32 := by rw [hud]; rfl
  have hend : 8 * bufLen (selBuf t .ud) ≤ t.cur.toNat := by simp [selBuf, bufLen, hlen]
  exact ⟨hlen, hreleased, fun a _ => exec_readBits_past_end hend a, fun _ => exec_huff_past_end hend⟩

/-! ## The cleared state -/

theorem bufLen_selBuf_cleared (c : Config) (b : BufSel) : bufLen (selBuf (State.cleared c) b) = 0 := by
  cases b <;> rfl

/-- ALIGN finds CUR at 0, a multiple of every unit, and leaves it there. -/
theorem exec_align_cleared (c : Config) : exec .align (State.cleared c) = .next (completeOk (State.cleared c)) := by
  have hzero : alignUp (State.cleared c).cfg.wordUnit (State.cleared c).cur.toNat = 0 :=
    alignUp_of_dvd c.wordUnit_pos (dvd_zero _)
  rw [exec_align_ok (by omega), hzero]
  rfl

/-- Settles O52: a cleared state has empty buffers, CUR at 0 and every valid bit 0. -/
theorem commandsAfterReset : Obligations.CommandsAfterReset := by
  intro c b
  have hlen := bufLen_selBuf_cleared c b
  have hend : 8 * bufLen (selBuf (State.cleared c) b) ≤ (State.cleared c).cur.toNat := by simp [hlen]
  exact ⟨fun a _ => exec_readBits_past_end hend a, fun _ => exec_huff_past_end hend,
    fun _ hm => exec_huff_error (huffDecode_invalidBrc hm), fun _ => exec_extract_empty hlen,
    exec_align_cleared c, exec_construct_sequenceError (.inl rfl), (samplesRejected.2 _).1 rfl⟩

end Sys2Proof.Machine
end
